-- ==== Sys2Proof/Word.lean ====
section
/-! DEFINITION. The word types of PFS-1: bytes, 32-bit register values, 17-bit aperture offsets. -/

namespace Sys2Proof

/-- A byte: an integer 0 to 255 (00_scope.md section 5). -/
abbrev Byte := BitVec 8

/-- A register value: 32 bits (00_scope.md R4, `W`). -/
abbrev Word := BitVec 32

/-- A byte offset within the 128 KiB aperture: the host port's 17 address bits (20_memory.md R70, R71). -/
abbrev Addr := BitVec 17

end Sys2Proof
end

