-- ==== Sys2Proof/Config.lean ====
section
/-! DEFINITION. What a build of PFS-1 fixes (its parameters) and the values the spec leaves unspecified. -/

namespace Sys2Proof

/-- The implementation parameters of 00_scope.md R4, and the platform's aperture base PFS_BASE (20_memory.md R71,
93_implementation_defined.md I28). A statement about every state is a statement about every value of them. -/
structure Params where
  /-- `BUF_MAX`: capacity of the buffer RAM in bytes. -/
  bufMax : Nat
  /-- `HDR_MAX`: capacity of the header array in bytes. -/
  hdrMax : Nat
  /-- `PKT_MAX`: number of packet descriptors stored. -/
  pktMax : Nat
  /-- `PFS_BASE`: where the platform maps the aperture in the system's address space. -/
  pfsBase : Nat
deriving DecidableEq, Repr

/-- The reference build's parameters: the defaults of 00_scope.md R4. PFS_BASE has no default in the spec:
DESIGN CHOICE 0 (log 6). -/
def Params.reference : Params := { bufMax := 4096, hdrMax := 16, pktMax := 4096, pfsBase := 0 }

/-- Which read of a buffer byte is meant, within one step. 70_reset_and_hazards.md R232 makes EVERY read of an
undefined byte a draw of its own, so two reads of one byte inside one SCAN are told apart by the scan step that makes
them (42_scan.md R172 to R177). No step reads one index twice under one tag (log 4). -/
inductive ReadTag where
  /-- a host read through the BUF window -/
  | host
  /-- a range command's read of its range (41_checksum.md R151) -/
  | range
  /-- the scan's search for a header byte (R172) -/
  | search
  /-- the header comparison at candidate start `s` (R174) -/
  | header (s : Nat)
  /-- the length byte of the candidate at `s` (R176) -/
  | length (s : Nat)
  /-- the checksum check of the candidate at `s` (R177) -/
  | check (s : Nat)
deriving DecidableEq, Repr

/-- FREE VALUE: what a read of the undefined BUF byte at an index gives, for the draw number, the kind of read and the
index (70_reset_and_hazards.md R232; 93_implementation_defined.md I20; log 4). It has no body: nothing can be proved of
its values. -/
opaque Config.freeByte : Nat → ReadTag → Nat → Byte

/-- FREE VALUE: what a host read of a result register or descriptor gives during the busy phase, or of a descriptor
entry never written, for the draw number (70_reset_and_hazards.md R233, R236; 93_implementation_defined.md I21, I22;
log 4). It has no body. -/
opaque Config.freeWord : Nat → Word

end Sys2Proof
end

