-- ==== Sys2Proof/Syntax.lean ====
section
/-! DEFINITION. The commands of PFS-1 (30_encoding.md R101) and the one format a command word has (R100). -/

namespace Sys2Proof

/-- The five commands: one constructor per row of the opcode table. A command word carries no operand: every operand is
a configuration register (30_encoding.md R100, R103). -/
inductive Instr where
  /-- SCAN: `findValidPackets` on the buffer (42_scan.md R182) -/
  | scan
  /-- XORSUM: `xorChecksum` of a range (41_checksum.md R147) -/
  | xorsum
  /-- ADDSUM: `addChecksum` of a range (41_checksum.md R148) -/
  | addsum
  /-- B2U: `bytesToUint` of a range (41_checksum.md R149) -/
  | b2u
  /-- VALIDATE: `isChecksumValid` of a range (41_checksum.md R150) -/
  | validate
deriving DecidableEq, Repr

/-- The fields of the format CMD32 (30_encoding.md R100). -/
structure Cmd32 where
  /-- bits 31:8, which must be 0 -/
  reserved : BitVec 24
  /-- bits 7:0, the opcode -/
  op : BitVec 8
deriving DecidableEq, Repr

/-- The fields of a 32-bit word. -/
def Cmd32.ofWord (w : Word) : Cmd32 := { reserved := w.extractLsb' 8 24, op := w.extractLsb' 0 8 }

/-- The word with the given fields. -/
def Cmd32.toWord (c : Cmd32) : Word := c.reserved ++ c.op

end Sys2Proof
end

