-- ==== Sys2Proof/WellFormed.lean ====
section
/-! DEFINITION. The checks a command word and a build must pass. -/

namespace Sys2Proof

/-- Bits 31:8 of a command word must be 0 (30_encoding.md R100). -/
def Cmd32.reservedClear (c : Cmd32) : Bool := c.reserved == 0

/-- The opcode is one of 0x01 to 0x05 (30_encoding.md R101). -/
def Cmd32.opDefined (c : Cmd32) : Bool := 1 ≤ c.op.toNat && c.op.toNat ≤ 5

/-- A command word's fields name a command (30_encoding.md R101, R102). -/
def Cmd32.wf (c : Cmd32) : Bool := c.reservedClear && c.opDefined

/-- A command has no operand, so every value of `Instr` is well-formed (30_encoding.md R100: the word carries no
register number and no immediate). The checks on operands are made on the configuration registers when the command is
accepted (40_command.md R121; `Machine.checkCommand`). -/
def Instr.wf (_ : Instr) : Bool := true

/-- `BUF_MAX` is 1 to 65536 (00_scope.md R4). -/
def Params.bufMaxLegal (p : Params) : Bool := 1 ≤ p.bufMax && p.bufMax ≤ 65536

/-- `HDR_MAX` is 1 to 256 (00_scope.md R4). -/
def Params.hdrMaxLegal (p : Params) : Bool := 1 ≤ p.hdrMax && p.hdrMax ≤ 256

/-- `PKT_MAX` is 1 to 4096 (00_scope.md R4). -/
def Params.pktMaxLegal (p : Params) : Bool := 1 ≤ p.pktMax && p.pktMax ≤ 4096

/-- A build the spec allows (00_scope.md R4). -/
def Params.legal (p : Params) : Bool := p.bufMaxLegal && p.hdrMaxLegal && p.pktMaxLegal

end Sys2Proof
end

