-- ==== Sys2Proof/Decode.lean ====
section
/-! DEFINITION. The decoder, total on every word and on every byte string, and the encoder written from the same
table (30_encoding.md R100 to R102, R104). -/

namespace Sys2Proof

/-- Why bytes name no command. -/
inductive Reject where
  /-- a 32-bit word that is none of the five: `ILLEGAL_CMD` (30_encoding.md R102) -/
  | illegalCmd
  /-- not exactly four bytes: a command word is 32 bits, and there is one length (30_encoding.md R100) -/
  | notOneWord
deriving DecidableEq, Repr

/-- One row of the opcode map. -/
structure OpcodeRow where
  mask : Word
  pattern : Word
  instr : Instr
deriving DecidableEq, Repr

/-- The opcode map of 30_encoding.md R101: each defined word is selected by an exact match of all 32 bits. -/
def opcodeTable : List OpcodeRow :=
  [ { mask := 0xFFFFFFFF, pattern := 0x00000001, instr := .scan },
    { mask := 0xFFFFFFFF, pattern := 0x00000002, instr := .xorsum },
    { mask := 0xFFFFFFFF, pattern := 0x00000003, instr := .addsum },
    { mask := 0xFFFFFFFF, pattern := 0x00000004, instr := .b2u },
    { mask := 0xFFFFFFFF, pattern := 0x00000005, instr := .validate } ]

/-- A word matches a row when its masked bits are the row's pattern. -/
def OpcodeRow.matches (r : OpcodeRow) (w : Word) : Bool := w &&& r.mask == r.pattern

/-- The decoder of command words: one of the five commands or `ILLEGAL_CMD`, total over all 2^32 words
(30_encoding.md R102). No mode bit changes it (R104). -/
def decodeWord (w : Word) : Except Reject Instr :=
  match opcodeTable.find? (fun r => r.matches w) with
  | some r => .ok r.instr
  | none => .error .illegalCmd

/-- Four bytes as a word, the lowest-addressed byte least significant (20_memory.md R74). -/
def wordOfBytes (b0 b1 b2 b3 : Byte) : Word := b3 ++ b2 ++ b1 ++ b0

/-- The four bytes of a word, lowest address first (20_memory.md R74). -/
def bytesOfWord (w : Word) : List Byte :=
  [w.extractLsb' 0 8, w.extractLsb' 8 8, w.extractLsb' 16 8, w.extractLsb' 24 8]

/-- The decoder of byte strings: exactly the four bytes of one command word. -/
def decodeBytes : List Byte → Except Reject Instr
  | [b0, b1, b2, b3] => decodeWord (wordOfBytes b0 b1 b2 b3)
  | _ => .error .notOneWord

/-- The word of a command (30_encoding.md R101). -/
def encodeWord : Instr → Word
  | .scan => 0x00000001
  | .xorsum => 0x00000002
  | .addsum => 0x00000003
  | .b2u => 0x00000004
  | .validate => 0x00000005

/-- The bytes of a command, lowest address first. -/
def encode (i : Instr) : List Byte := bytesOfWord (encodeWord i)

/-- The command that the decoder reads from an instruction whose bits are `w`, numbered as the opcode table numbers
them; bits above `nbits` are 0. A value that needs more than the one word a command has is no command. -/
def decodeTableWord (nbits w : Nat) : Option Instr :=
  let v := w % 2 ^ nbits
  if v < 2 ^ 32 then
    match decodeBytes (bytesOfWord (BitVec.ofNat 32 v)) with
    | .ok i => some i
    | .error _ => none
  else none

end Sys2Proof
end

