-- ==== Sys2Proof/Machine/State.lean ====
section
/-! DEFINITION. The state of PFS-1 as plain data, the events of its environment, the reasons a step can stop, and the
state after reset (10_state.md). -/

namespace Sys2Proof.Machine

/-! ### Faults and refusals -/

/-- Why the machine stops. -/
inductive Fault where
  /-- Raised by `step` alone, on a host access while `rst = 1`: 70_reset_and_hazards.md R230 gives such an access no
  defined effect and says the model does not admit it. Safe: nothing is proved of a run past it (log 10). -/
  | accessDuringReset
deriving DecidableEq, Repr

/-- Why an instruction has no meaning. -/
inductive Refusal where
  /-- Raised by an arm of `exec` whose instruction is not modelled; no arm raises it. Safe. -/
  | notModelled (mnemonic : String)
deriving DecidableEq, Repr

/-! ### Names the registers use -/

/-- The error codes of 60_exceptions.md R201. -/
inductive ErrCode where
  | noError
  | illegalCmd
  | bufLenRange
  | emptyHeader
  | hdrTooLong
  | badCkSize
  | argRange
  | b2uTooLong
deriving DecidableEq, Repr

/-- `CKCFG.MODE` (10_state.md R30). -/
inductive CkMode where
  | xor
  | add
deriving DecidableEq, Repr

/-- `CKCFG.ENDIAN` (10_state.md R30): the byte order of the stored additive checksum and of B2U. -/
inductive Endian where
  | big
  | little
deriving DecidableEq, Repr

/-- The fields of `CTRL` (10_state.md R24). -/
structure Ctrl where
  ie : Bool
  adv : Bool
  tail : Bool
deriving DecidableEq, Repr

/-- The stored fields of `STATUS` (10_state.md R25); BUSY is `pending` (R46). -/
structure Status where
  done : Bool
  err : Bool
  wbusy : Bool
  errCode : ErrCode
deriving DecidableEq, Repr

/-- The fields of `CKCFG` (10_state.md R30). -/
structure CkCfg where
  mode : CkMode
  endian : Endian
  size : BitVec 4
deriving DecidableEq, Repr

/-- The fields of `RES_FLAGS` (10_state.md R39). -/
structure ResFlags where
  valid : Bool
  rangeFail : Bool
  ovf : Bool
deriving DecidableEq, Repr

/-- A packet descriptor (10_state.md R45). -/
structure Desc where
  start : Word
  len : Word
deriving DecidableEq, Repr

/-- The source's tagged checksum specification (41_checksum.md R145). -/
inductive ChecksumSpec where
  | xor (offset : Nat)
  | add (size offset : Nat) (endian : Endian)
deriving DecidableEq, Repr

/-- The named registers of the map of 10_state.md section 2. -/
inductive Reg where
  | id | capBuf | capHdr | capPkt | ctrl | status | cmd
  | bufLen | hdrLen | lenIndex | lenOffset | ckcfg | ckOffset | argStart | argLen
  | pktCount | remStart | remLen | resFlags | resLo | resHi
deriving DecidableEq, Repr

/-- The regions of the aperture (20_memory.md R71). -/
inductive Region where
  | registers
  | hdr
  | reserved
  | desc
  | buf
deriving DecidableEq, Repr

/-! ### The environment -/

/-- The size of a host access: 1, 2 or 4 bytes (20_memory.md R70). -/
inductive Size where
  | b1
  | b2
  | b4
deriving DecidableEq, Repr

/-- One host bus access, as the host port's request carries it (20_memory.md R70). -/
inductive Access where
  | read (addr : Addr) (size : Size)
  | write (addr : Addr) (size : Size) (data : Word)
deriving DecidableEq, Repr

/-- What happens next to the block: the agents of 20_memory.md R81 and the reset of R230, one atomic step each
(60_exceptions.md R204; log 3). -/
inductive Event where
  /-- the host performs one access -/
  | host (a : Access)
  /-- the engine takes its completion step, if a command is running (40_command.md R125) -/
  | engine
  /-- `rst = 1` at a rising edge of `clk` (70_reset_and_hazards.md R230) -/
  | reset
  /-- the host performs an access while `rst = 1`, which it must not (70_reset_and_hazards.md R230) -/
  | hostInReset (a : Access)
deriving DecidableEq, Repr

/-- The host port's response outputs (20_memory.md R70, R73). -/
structure Response where
  data : Word
  error : Bool
deriving DecidableEq, Repr

/-! ### Storage -/

/-- The bytes of the HDR and BUF windows, keyed by aperture offset: a list of cells in one canonical form, offsets
strictly rising and no cell equal to what an unlisted offset reads as (`Memory.wf`; log 11). -/
abbrev Memory := List Host.Cell

/-- The descriptor table: the entries written since reset, indices strictly rising (10_state.md R45). -/
abbrev DescTable := List (Nat × Desc)

/-- The state of the block and of its environment. -/
structure State where
  /-- the parameters of the build, constant (00_scope.md R4; CAP_BUF, CAP_HDR, CAP_PKT, 10_state.md R23) -/
  params : Params
  /-- CTRL (10_state.md R24) -/
  ctrl : Ctrl
  /-- STATUS but for BUSY (10_state.md R25) -/
  status : Status
  /-- BUF_LEN (10_state.md R28) -/
  bufLen : Word
  /-- HDR_LEN (10_state.md R29) -/
  hdrLen : Word
  /-- LEN_INDEX (10_state.md R32) -/
  lenIndex : Word
  /-- LEN_OFFSET (10_state.md R33) -/
  lenOffset : Word
  /-- CKCFG (10_state.md R30) -/
  ckcfg : CkCfg
  /-- CK_OFFSET (10_state.md R31) -/
  ckOffset : Word
  /-- ARG_START (10_state.md R34) -/
  argStart : Word
  /-- ARG_LEN (10_state.md R35) -/
  argLen : Word
  /-- PKT_COUNT (10_state.md R37) -/
  pktCount : Word
  /-- REM_START (10_state.md R38) -/
  remStart : Word
  /-- REM_LEN (10_state.md R38) -/
  remLen : Word
  /-- RES_FLAGS (10_state.md R39) -/
  resFlags : ResFlags
  /-- RES_LO (10_state.md R40) -/
  resLo : Word
  /-- RES_HI (10_state.md R40) -/
  resHi : Word
  /-- HDR and BUF (10_state.md R43, R44) -/
  mem : Memory
  /-- DESC (10_state.md R45) -/
  desc : DescTable
  /-- the accepted opcode, or none (10_state.md R46); STATUS.BUSY is 1 exactly when it is not none -/
  pending : Option Instr
  /-- CTRL.ADV latched at acceptance (10_state.md R46) -/
  latAdv : Bool
  /-- CTRL.TAIL latched at acceptance (10_state.md R46) -/
  latTail : Bool
  /-- the host port's last response (the model's field; log 5) -/
  resp : Response
  /-- what happens next, oldest first (the model's field; log 3) -/
  schedule : List Event
  /-- the number of the next draw of unspecified values (the model's field; log 4) -/
  draws : Nat
deriving DecidableEq, Repr

/-- The block right after reset, for a build (10_state.md R48): every register at 0, HDR bytes 0, BUF and DESC without
values, no command pending. The model's own fields: no response yet, nothing scheduled, the first draw (DESIGN CHOICE,
logs 3 to 5). -/
def State.resetOf (p : Params) : State :=
  { params := p
    ctrl := { ie := false, adv := false, tail := false }
    status := { done := false, err := false, wbusy := false, errCode := .noError }
    bufLen := 0, hdrLen := 0, lenIndex := 0, lenOffset := 0
    ckcfg := { mode := .xor, endian := .big, size := 0 }
    ckOffset := 0, argStart := 0, argLen := 0
    pktCount := 0, remStart := 0, remLen := 0
    resFlags := { valid := false, rangeFail := false, ovf := false }
    resLo := 0, resHi := 0
    mem := [], desc := []
    pending := none, latAdv := false, latTail := false
    resp := { data := 0, error := false }
    schedule := [], draws := 0 }

/-- The reference build right after reset (10_state.md R48, 00_scope.md R4; log 6). -/
def State.reset : State := State.resetOf Params.reference

end Sys2Proof.Machine
end

