-- ==== Sys2Proof/Machine/Flags.lean ====
section
/-! DEFINITION. The field layouts of STATUS, CTRL, CKCFG and RES_FLAGS, every computation of a flag, and the interrupt
output (10_state.md R24 to R26, R30, R39, R47; 60_exceptions.md R201, R208). -/

namespace Sys2Proof.Machine

/-- The number of an error code (60_exceptions.md R201). -/
def ErrCode.toNat : ErrCode → Nat
  | .noError => 0
  | .illegalCmd => 1
  | .bufLenRange => 2
  | .emptyHeader => 3
  | .hdrTooLong => 4
  | .badCkSize => 5
  | .argRange => 6
  | .b2uTooLong => 7

/-- STATUS.BUSY: 1 exactly when a command is pending (10_state.md R25, R46). -/
def State.busy (s : State) : Bool := s.pending.isSome

/-- STATUS as software reads it: BUSY, DONE, ERR, WBUSY in bits 0 to 3, ERRCODE in bits 11:8, the rest 0
(10_state.md R25). -/
def State.statusWord (s : State) : Word :=
  BitVec.ofNat 32 (s.busy.toNat + 2 * s.status.done.toNat + 4 * s.status.err.toNat + 8 * s.status.wbusy.toNat
    + 256 * s.status.errCode.toNat)

/-- CTRL as software reads it; bits 31:3 read 0 (10_state.md R24). -/
def Ctrl.toWord (c : Ctrl) : Word := BitVec.ofNat 32 (c.ie.toNat + 2 * c.adv.toNat + 4 * c.tail.toNat)

/-- The fields of CTRL that a written word stores (10_state.md R24, R36). -/
def Ctrl.ofWord (v : Word) : Ctrl := { ie := v.getLsbD 0, adv := v.getLsbD 1, tail := v.getLsbD 2 }

/-- CKCFG.MODE as a bit (10_state.md R30). -/
def CkMode.bit : CkMode → Nat
  | .xor => 0
  | .add => 1

/-- CKCFG.ENDIAN as a bit (10_state.md R30). -/
def Endian.bit : Endian → Nat
  | .big => 0
  | .little => 1

/-- CKCFG as software reads it; bits 3:2 and 31:8 read 0 (10_state.md R30). -/
def CkCfg.toWord (c : CkCfg) : Word := BitVec.ofNat 32 (c.mode.bit + 2 * c.endian.bit + 16 * c.size.toNat)

/-- The fields of CKCFG that a written word stores; SIZE stores any value 0 to 15 (10_state.md R30, R36). -/
def CkCfg.ofWord (v : Word) : CkCfg :=
  { mode := if v.getLsbD 0 then .add else .xor
    endian := if v.getLsbD 1 then .little else .big
    size := v.extractLsb' 4 4 }

/-- RES_FLAGS as software reads it: VALID, RANGE_FAIL, OVF in bits 0 to 2 (10_state.md R39). -/
def ResFlags.toWord (f : ResFlags) : Word :=
  BitVec.ofNat 32 (f.valid.toNat + 2 * f.rangeFail.toNat + 4 * f.ovf.toNat)

/-- RES_FLAGS with every field 0. -/
def ResFlags.zero : ResFlags := { valid := false, rangeFail := false, ovf := false }

/-- What a written word clears in STATUS: bit 1 clears DONE, bit 2 ERR and ERRCODE, bit 3 WBUSY; the other bits are
ignored (10_state.md R26). -/
def Status.clearedBy (v : Word) (t : Status) : Status :=
  { done := t.done && !v.getLsbD 1
    err := t.err && !v.getLsbD 2
    wbusy := t.wbusy && !v.getLsbD 3
    errCode := if v.getLsbD 2 then .noError else t.errCode }

/-- The interrupt output: level, active high, `CTRL.IE and STATUS.DONE` (10_state.md R47, 60_exceptions.md R208). -/
def State.irq (s : State) : Bool := s.ctrl.ie && s.status.done

end Sys2Proof.Machine
end

