-- ==== Sys2Proof/Machine/Ops.lean ====
section
/-! DEFINITION. The shared operations: cells in canonical form, the windows' bytes, the address map, the registers, the
error completion, the acceptance and the completion of a command. -/

namespace Sys2Proof.Machine

/-! ### Lists of cells with strictly rising keys -/

/-- The value listed at a key. -/
def cellsGet {α : Type} : List (Nat × α) → Nat → Option α
  | [], _ => none
  | c :: t, k => if c.1 = k then some c.2 else cellsGet t k

/-- List a value at a key, in place of an earlier one, keeping the keys rising. -/
def cellsInsert {α : Type} : List (Nat × α) → Nat → α → List (Nat × α)
  | [], k, v => [(k, v)]
  | c :: t, k, v =>
    if k < c.1 then (k, v) :: c :: t
    else if k = c.1 then (k, v) :: t
    else c :: cellsInsert t k v

/-- List nothing at a key. -/
def cellsErase {α : Type} : List (Nat × α) → Nat → List (Nat × α)
  | [], _ => []
  | c :: t, k => if c.1 = k then t else c :: cellsErase t k

/-- Every key is at least `lo`, and the keys rise strictly. -/
def cellsRiseFrom {α : Type} : Nat → List (Nat × α) → Bool
  | _, [] => true
  | lo, c :: t => decide (lo ≤ c.1) && cellsRiseFrom (c.1 + 1) t

/-! ### The memory of the HDR and BUF windows -/

/-- The aperture offset of HDR[0] (20_memory.md R71). -/
def hdrBase : Nat := 0x100

/-- The aperture offset of BUF[0] (20_memory.md R71). -/
def bufBase : Nat := 0x10000

/-- What an unlisted offset reads as: a header byte reads its reset value 0 (10_state.md R43, R48); any other offset
has no value, which is what 70_reset_and_hazards.md R232 says of a BUF byte not written since reset (log 11). -/
def Memory.unlisted (x : Nat) : Option Byte := if hdrBase ≤ x ∧ x < hdrBase + 256 then some 0 else none

/-- The byte stored at an aperture offset, or none where none is defined. -/
def Memory.read (m : Memory) (x : Nat) : Option Byte :=
  match cellsGet m x with
  | some b => some b
  | none => Memory.unlisted x

/-- Store a byte, keeping the canonical form. -/
def Memory.write (m : Memory) (x : Nat) (b : Byte) : Memory :=
  if Memory.unlisted x = some b then cellsErase m x else cellsInsert m x b

/-- The canonical form: offsets strictly rising, no cell equal to what its offset reads as unlisted. -/
def Memory.wf (m : Memory) : Bool := cellsRiseFrom 0 m && m.all (fun c => Memory.unlisted c.1 != some c.2)

/-- Every cell lies within the capacity of its window (10_state.md R43, R44). -/
def Memory.within (p : Params) (m : Memory) : Bool :=
  m.all (fun c => (hdrBase ≤ c.1 && c.1 < hdrBase + p.hdrMax) || (bufBase ≤ c.1 && c.1 < bufBase + p.bufMax))

/-- HDR[k]: beyond HDR_MAX it reads 0 (20_memory.md R77). -/
def State.hdrByte (s : State) (k : Nat) : Byte :=
  if k < s.params.hdrMax then (Memory.read s.mem (hdrBase + k)).getD 0 else 0

/-- BUF[k] where the host has written it since the last reset (70_reset_and_hazards.md R232). -/
def State.bufDefined (s : State) (k : Nat) : Option Byte := Memory.read s.mem (bufBase + k)

/-- A read of BUF[k]: the stored byte, or a draw of its own where none is defined (70_reset_and_hazards.md R232). -/
def State.bufByte (s : State) (t : ReadTag) (k : Nat) : Byte :=
  match s.bufDefined k with
  | some b => b
  | none => Config.freeByte s.draws t k

/-- A run of reads of BUF[a], BUF[a+1], …, `len` of them, each byte once. -/
def State.bufBytes (s : State) (t : ReadTag) (a len : Nat) : List Byte := (List.range' a len).map (s.bufByte t)

/-! ### The address map and the access rules -/

/-- The number of bytes of an access. -/
def Size.bytes : Size → Nat
  | .b1 => 1
  | .b2 => 2
  | .b4 => 4

/-- The region of an aperture offset (20_memory.md R71). -/
def regionOf (x : Nat) : Region :=
  if x < 0x100 then .registers
  else if x < 0x200 then .hdr
  else if x < 0x8000 then .reserved
  else if x < 0x10000 then .desc
  else .buf

/-- The regions that take 4-byte accesses only (20_memory.md R71, R72). -/
def Region.isWord : Region → Bool
  | .registers => true
  | .desc => true
  | .hdr => false
  | .reserved => false
  | .buf => false

/-- An access that gets no error response: naturally aligned, and 4 bytes wide in a word region (20_memory.md R72). -/
def accessOk (x : Nat) (n : Size) : Bool := x % n.bytes == 0 && (!(regionOf x).isWord || n.bytes == 4)

/-- The register at an offset of the register range; the offsets not named are reserved (10_state.md section 2,
R42). -/
def regAt : Nat → Option Reg
  | 0x000 => some .id
  | 0x004 => some .capBuf
  | 0x008 => some .capHdr
  | 0x00C => some .capPkt
  | 0x010 => some .ctrl
  | 0x014 => some .status
  | 0x018 => some .cmd
  | 0x020 => some .bufLen
  | 0x024 => some .hdrLen
  | 0x028 => some .lenIndex
  | 0x02C => some .lenOffset
  | 0x030 => some .ckcfg
  | 0x034 => some .ckOffset
  | 0x038 => some .argStart
  | 0x03C => some .argLen
  | 0x040 => some .pktCount
  | 0x044 => some .remStart
  | 0x048 => some .remLen
  | 0x04C => some .resFlags
  | 0x050 => some .resLo
  | 0x054 => some .resHi
  | _ => none

/-- The offset of CMD (10_state.md section 2). -/
def cmdAddr : Addr := 0x018

/-! ### Reading -/

/-- The identification constant, "PFS1" (00_scope.md R1, 10_state.md R22). -/
def idWord : Word := 0x50465331

/-- A result register as the host reads it: the stored value, or a draw during the busy phase
(70_reset_and_hazards.md R236). -/
def State.resultRead (s : State) (v : Word) : Word := if s.busy then Config.freeWord s.draws else v

/-- A register as the host reads it (20_memory.md R75; 10_state.md R22 to R40). -/
def State.readReg (s : State) : Reg → Word
  | .id => idWord
  | .capBuf => BitVec.ofNat 32 s.params.bufMax
  | .capHdr => BitVec.ofNat 32 s.params.hdrMax
  | .capPkt => BitVec.ofNat 32 s.params.pktMax
  | .ctrl => s.ctrl.toWord
  | .status => s.statusWord
  | .cmd => 0
  | .bufLen => s.bufLen
  | .hdrLen => s.hdrLen
  | .lenIndex => s.lenIndex
  | .lenOffset => s.lenOffset
  | .ckcfg => s.ckcfg.toWord
  | .ckOffset => s.ckOffset
  | .argStart => s.argStart
  | .argLen => s.argLen
  | .pktCount => s.resultRead s.pktCount
  | .remStart => s.resultRead s.remStart
  | .remLen => s.resultRead s.remLen
  | .resFlags => s.resultRead s.resFlags.toWord
  | .resLo => s.resultRead s.resLo
  | .resHi => s.resultRead s.resHi

/-- A window byte as the host reads it: beyond the capacity it reads 0 (20_memory.md R76, R77). -/
def State.windowByte (s : State) (x : Nat) : Byte :=
  match regionOf x with
  | .hdr => s.hdrByte (x - hdrBase)
  | .buf => if x - bufBase < s.params.bufMax then s.bufByte .host (x - bufBase) else 0
  | .registers => 0
  | .reserved => 0
  | .desc => 0

/-- The unsigned number of bytes, the first least significant (20_memory.md R74; 41_checksum.md R142, little). -/
def leNat : List Byte → Nat
  | [] => 0
  | b :: bs => b.toNat + 256 * leNat bs

/-- A word of the DESC window as the host reads it. Any read of the window during the busy phase, and any read of an
entry not written since reset, is a draw; beyond PKT_MAX an idle block reads 0 (20_memory.md R78,
70_reset_and_hazards.md R233, R236; log 9). -/
def State.descWord (s : State) (x : Nat) : Word :=
  if s.busy then Config.freeWord s.draws
  else if s.params.pktMax ≤ (x - 0x8000) / 8 then 0
  else match cellsGet s.desc ((x - 0x8000) / 8) with
    | some d => if x % 8 = 0 then d.start else d.len
    | none => Config.freeWord s.draws

/-- The data a host read without error returns (20_memory.md R74 to R78). -/
def State.readData (s : State) (x : Nat) (n : Size) : Word :=
  match regionOf x with
  | .registers =>
    match regAt x with
    | some r => s.readReg r
    | none => 0
  | .hdr => BitVec.ofNat 32 (leNat ((List.range' x n.bytes).map s.windowByte))
  | .buf => BitVec.ofNat 32 (leNat ((List.range' x n.bytes).map s.windowByte))
  | .reserved => 0
  | .desc => s.descWord x

/-- Answer the host's access (20_memory.md R70; log 5). -/
def State.respond (s : State) (v : Word) (e : Bool) : State := { s with resp := { data := v, error := e } }

/-- A host read: no side effect on the block (20_memory.md R80); an error response reads 0 (R73). The draw number moves
on, so that a later read draws anew. -/
def hostRead (x : Addr) (n : Size) (s : State) : State :=
  if accessOk x.toNat n then { s.respond (s.readData x.toNat n) false with draws := s.draws + 1 }
  else s.respond 0 true

/-! ### Writing -/

/-- A write ignored because the block is busy: only WBUSY is set (40_command.md R126, 60_exceptions.md R205). -/
def State.ignoreWrite (s : State) : State := { s with status := { s.status with wbusy := true } }

/-- A CTRL write, which takes effect at all times (10_state.md R24, 40_command.md R126). -/
def State.writeCtrl (s : State) (v : Word) : State := { s with ctrl := Ctrl.ofWord v }

/-- A STATUS write, accepted at any time (10_state.md R26). It is also how the host "returns" from a completion
(60_exceptions.md R210). -/
def State.writeStatus (s : State) (v : Word) : State := { s with status := s.status.clearedBy v }

/-- Store a word in a configuration register; other registers are not written here (10_state.md R28 to R36). -/
def State.storeConfig (s : State) (r : Reg) (v : Word) : State :=
  match r with
  | .bufLen => { s with bufLen := v }
  | .hdrLen => { s with hdrLen := v }
  | .lenIndex => { s with lenIndex := v }
  | .lenOffset => { s with lenOffset := v }
  | .ckcfg => { s with ckcfg := CkCfg.ofWord v }
  | .ckOffset => { s with ckOffset := v }
  | .argStart => { s with argStart := v }
  | .argLen => { s with argLen := v }
  | .id => s | .capBuf => s | .capHdr => s | .capPkt => s | .ctrl => s | .status => s | .cmd => s
  | .pktCount => s | .remStart => s | .remLen => s | .resFlags => s | .resLo => s | .resHi => s

/-- A configuration write: ignored, with WBUSY set, during the busy phase (40_command.md R126). -/
def State.writeConfig (s : State) (r : Reg) (v : Word) : State :=
  if s.busy then s.ignoreWrite else s.storeConfig r v

/-- Whether a window byte exists, and so can be written (20_memory.md R76, R77). -/
def windowHolds (p : Params) (x : Nat) : Bool :=
  match regionOf x with
  | .hdr => x - hdrBase < p.hdrMax
  | .buf => x - bufBase < p.bufMax
  | .registers => false
  | .reserved => false
  | .desc => false

/-- Write one window byte; beyond the capacity the write is ignored (20_memory.md R76, R77). -/
def State.writeByte (s : State) (x : Nat) (b : Byte) : State :=
  if windowHolds s.params x then { s with mem := Memory.write s.mem x b } else s

/-- Write bytes at rising offsets. -/
def State.writeBytes (s : State) (x : Nat) : List Byte → State
  | [] => s
  | b :: bs => (s.writeByte x b).writeBytes (x + 1) bs

/-- The bytes a write of the given size carries, lowest address first (20_memory.md R74). -/
def dataBytes (n : Size) (v : Word) : List Byte := (List.range n.bytes).map (fun i => v.extractLsb' (8 * i) 8)

/-- A write to the HDR or BUF window: ignored entirely, with WBUSY set, during the busy phase (20_memory.md R76, R77;
40_command.md R126). -/
def State.writeWindow (s : State) (x : Nat) (n : Size) (v : Word) : State :=
  if s.busy then s.ignoreWrite else s.writeBytes x (dataBytes n v)

/-! ### The error completion, the acceptance and the completion -/

/-- What a command write while idle does first: the last completion's report is cleared (40_command.md R120). -/
def State.clearReport (s : State) : State :=
  { s with status := { s.status with done := false, err := false, errCode := .noError } }

/-- `raise Error(code)`: the block's only exception. Only DONE, ERR and ERRCODE change (40_command.md R123,
60_exceptions.md R200). Its return is `State.writeStatus`. -/
def State.raiseError (s : State) (code : ErrCode) : State :=
  { s with status := { s.status with done := true, err := true, errCode := code } }

/-- `accept(w)`: the command becomes pending and the policies are latched (40_command.md R122). -/
def State.accept (s : State) (i : Instr) : State :=
  { s with pending := some i, latAdv := s.ctrl.adv, latTail := s.ctrl.tail }

/-- What a command computes (40_command.md R127): the packets as exact (start, length) pairs, the remainder, the flags
and the 64-bit value. -/
structure Results where
  packets : List (Nat × Nat)
  rem : Nat × Nat
  flags : ResFlags
  value : BitVec 64

/-- Write packets to consecutive descriptor entries (42_scan.md R181). -/
def storeDescs : Nat → List (Nat × Nat) → DescTable → DescTable
  | _, [], t => t
  | k, q :: qs, t =>
    storeDescs (k + 1) qs (cellsInsert t k { start := BitVec.ofNat 32 q.1, len := BitVec.ofNat 32 q.2 })

/-- The completion step: all six result registers, the descriptor entries the table can hold, then idle with DONE
(40_command.md R125, R127; 42_scan.md R181). The latched policies keep their values (log 12). -/
def State.complete (s : State) (r : Results) : State :=
  { s with
    pktCount := BitVec.ofNat 32 r.packets.length
    remStart := BitVec.ofNat 32 r.rem.1
    remLen := BitVec.ofNat 32 r.rem.2
    resFlags := r.flags
    resLo := r.value.extractLsb' 0 32
    resHi := r.value.extractLsb' 32 32
    desc := storeDescs 0 (r.packets.take s.params.pktMax) s.desc
    pending := none
    status := { s.status with done := true }
    draws := s.draws + 1 }

/-- Reset: every state element at its value of 10_state.md R48, whatever the block was doing
(70_reset_and_hazards.md R230, R231). The build, what happens next and the draw number are no state of the block and
stay (logs 3, 4). -/
def State.applyReset (s : State) : State :=
  { State.resetOf s.params with schedule := s.schedule, draws := s.draws }

end Sys2Proof.Machine
end

