-- ==== Sys2Proof/Machine/Operands.lean ====
section
/-! DEFINITION. The operands of the commands, the checks made on them at acceptance, and the two phases every command
has (30_encoding.md R103, 40_command.md, 41_checksum.md R145, R151, 42_scan.md R170). -/

namespace Sys2Proof.Machine

/-- The range `A = BUF[ARG_START .. ARG_START + ARG_LEN)` of the range commands, each byte read once
(41_checksum.md R151). -/
def State.range (s : State) : List Byte := s.bufBytes .range s.argStart.toNat s.argLen.toNat

/-- The header `H = HDR[0 .. HDR_LEN)` (42_scan.md R170). -/
def State.header (s : State) : List Byte := (List.range s.hdrLen.toNat).map s.hdrByte

/-- The checksum specification of SCAN and VALIDATE (41_checksum.md R145). -/
def State.spec (s : State) : ChecksumSpec :=
  match s.ckcfg.mode with
  | .xor => .xor s.ckOffset.toNat
  | .add => .add s.ckcfg.size.toNat s.ckOffset.toNat s.ckcfg.endian

/-- Whether a command uses CKCFG.SIZE (40_command.md R121, `sizeUsed`). -/
def sizeUsed (m : CkMode) : Instr → Bool
  | .scan => m == .add
  | .xorsum => false
  | .addsum => true
  | .b2u => false
  | .validate => m == .add

/-- Whether a command works on the argument range (40_command.md R121, `rangeOp`). -/
def rangeOp : Instr → Bool
  | .scan => false
  | .xorsum => true
  | .addsum => true
  | .b2u => true
  | .validate => true

/-- `Check` of a legal command word: the first of the codes 2 to 7 whose condition holds; all sums exact
(40_command.md R121, 60_exceptions.md R203). Code 1 is the decoder's refusal (`cmdWrite`). -/
def checkCommand (i : Instr) (s : State) : ErrCode :=
  if s.params.bufMax < s.bufLen.toNat then .bufLenRange
  else if i = .scan ∧ s.hdrLen.toNat = 0 then .emptyHeader
  else if i = .scan ∧ s.params.hdrMax < s.hdrLen.toNat then .hdrTooLong
  else if sizeUsed s.ckcfg.mode i = true ∧ (s.ckcfg.size.toNat = 0 ∨ 8 < s.ckcfg.size.toNat) then .badCkSize
  else if rangeOp i = true ∧ s.bufLen.toNat < s.argStart.toNat + s.argLen.toNat then .argRange
  else if i = .b2u ∧ 8 < s.argLen.toNat then .b2uTooLong
  else .noError

/-- The acceptance phase, one atomic host step: the report is cleared, then the command is refused with the first
failing check's code or accepted (40_command.md R120). -/
def acceptCommand (i : Instr) (s : State) : State :=
  match checkCommand i s with
  | .noError => s.clearReport.accept i
  | code => s.clearReport.raiseError code

/-- A command's meaning from what it computes. On an idle block it is the acceptance of the command's word; on a block
where the command is pending it is the engine's completion of it; where another command is pending its word is ignored
(40_command.md R120, R125, R126; log 1). -/
def runCommand (i : Instr) (compute : State → Results) (s : State) : Host.Outcome State Fault Refusal :=
  match s.pending with
  | none => .next (acceptCommand i s)
  | some j => if j = i then .next (s.complete (compute s)) else .next s.ignoreWrite

/-- The results of a command that reports one 64-bit value: everything else is written 0 (40_command.md R127). -/
def Results.ofValue (v : BitVec 64) : Results :=
  { packets := [], rem := (0, 0), flags := ResFlags.zero, value := v }

end Sys2Proof.Machine
end

