-- ==== Sys2Proof/Machine/Checksum.lean ====
section
/-! DEFINITION. The Checksum Engine's functions on byte lists, and the range commands XORSUM, ADDSUM, B2U and VALIDATE
(41_checksum.md). -/

namespace Sys2Proof.Machine

/-- `xorChecksum`: the fold of exclusive-or; an empty list gives 0 (41_checksum.md R140). -/
def xorChecksum (b : List Byte) : Byte := b.foldl (fun acc x => acc ^^^ x) 0

/-- The exact sum of bytes. -/
def byteSum : List Byte → Nat
  | [] => 0
  | x :: b => x.toNat + byteSum b

/-- `addChecksum`: the sum modulo `2^(8*size)` (41_checksum.md R141). -/
def addChecksum (b : List Byte) (size : Nat) : Nat := byteSum b % 2 ^ (8 * size)

/-- The unsigned number of bytes, the first most significant (41_checksum.md R142, big). -/
def beNat (b : List Byte) : Nat := b.foldl (fun acc x => 256 * acc + x.toNat) 0

/-- `bytesToUint` in the given byte order (41_checksum.md R142). -/
def bytesToUint (b : List Byte) : Endian → Nat
  | .big => beNat b
  | .little => leNat b

/-- A validity check's answer (41_checksum.md R146). -/
structure Verdict where
  valid : Bool
  rangeFail : Bool
deriving DecidableEq, Repr

/-- The answer of a check whose slice is too short for its specification (41_checksum.md R146). -/
def Verdict.tooShort : Verdict := { valid := false, rangeFail := true }

/-- `b[i .. j)`. -/
def slice (b : List Byte) (i j : Nat) : List Byte := (b.drop i).take (j - i)

/-- `isChecksumValid` with `XOR(off)` (41_checksum.md R143). -/
def xorValid (b : List Byte) (off : Nat) : Verdict :=
  if b.length < off + 1 then Verdict.tooShort
  else { valid := some (xorChecksum (slice b off (b.length - 1))) == b[b.length - 1]?, rangeFail := false }

/-- `isChecksumValid` with `ADD(size, off, e)` (41_checksum.md R144). -/
def addValid (b : List Byte) (size off : Nat) (e : Endian) : Verdict :=
  if b.length < size ∨ b.length - size < off then Verdict.tooShort
  else
    { valid := addChecksum (slice b off (b.length - size)) size
        == bytesToUint (slice b (b.length - size) b.length) e
      rangeFail := false }

/-- `isChecksumValid` (41_checksum.md R143 to R146). -/
def isChecksumValid (b : List Byte) : ChecksumSpec → Verdict
  | .xor off => xorValid b off
  | .add size off e => addValid b size off e

/-- What XORSUM computes (41_checksum.md R147). -/
def xorsumResults (s : State) : Results := Results.ofValue ((xorChecksum s.range).setWidth 64)

/-- What ADDSUM computes; MODE and ENDIAN are ignored (41_checksum.md R148). -/
def addsumResults (s : State) : Results :=
  Results.ofValue (BitVec.ofNat 64 (addChecksum s.range s.ckcfg.size.toNat))

/-- What B2U computes; MODE and SIZE are ignored (41_checksum.md R149). -/
def b2uResults (s : State) : Results := Results.ofValue (BitVec.ofNat 64 (bytesToUint s.range s.ckcfg.endian))

/-- What VALIDATE computes (41_checksum.md R150). -/
def validateResults (s : State) : Results :=
  let v := isChecksumValid s.range s.spec
  { packets := [], rem := (0, 0), value := 0
    flags := { valid := v.valid, rangeFail := v.rangeFail, ovf := false } }

/-- XORSUM (41_checksum.md R147). -/
def execXorsum (s : State) : Host.Outcome State Fault Refusal := runCommand .xorsum xorsumResults s

/-- ADDSUM (41_checksum.md R148). -/
def execAddsum (s : State) : Host.Outcome State Fault Refusal := runCommand .addsum addsumResults s

/-- B2U (41_checksum.md R149). -/
def execB2u (s : State) : Host.Outcome State Fault Refusal := runCommand .b2u b2uResults s

/-- VALIDATE (41_checksum.md R150). -/
def execValidate (s : State) : Host.Outcome State Fault Refusal := runCommand .validate validateResults s

end Sys2Proof.Machine
end

