-- ==== Sys2Proof/Machine/Scan.lean ====
section
/-! DEFINITION. The Packet Scanner and the command SCAN (42_scan.md). -/

namespace Sys2Proof.Machine

/-- The inputs of `findValidPackets` (42_scan.md R170). The buffer is given by its length and by what each read of a
byte of it returns, told apart by the step that makes the read: a byte not written since reset is a draw of its own at
each read (70_reset_and_hazards.md R232; log 4). -/
structure ScanInput where
  n : Nat
  byte : ReadTag → Nat → Byte
  hdr : List Byte
  li : Nat
  lo : Nat
  spec : ChecksumSpec
  adv : Bool
  tail : Bool

/-- `B[a .. a + len)` as read by one step of the scan. -/
def ScanInput.bytes (I : ScanInput) (t : ReadTag) (a len : Nat) : List Byte := (List.range' a len).map (I.byte t)

/-- How one pass of the loop ends (42_scan.md R171). -/
inductive Pass where
  /-- the scan returns with this remainder -/
  | stop (rem : Nat × Nat)
  /-- no packet at this candidate; the cursor moves to `c` -/
  | skip (c : Nat)
  /-- the packet `(s, L)` is appended; the cursor moves to `c` -/
  | packet (s L c : Nat)
deriving DecidableEq, Repr

/-- Step 2: the least `k` with `c <= k < n` and `B[k] = H[0]` (42_scan.md R172). -/
def ScanInput.candidate (I : ScanInput) (c : Nat) : Option Nat :=
  (List.range' c (I.n - c)).find? (fun k => I.hdr.head? == some (I.byte .search k))

/-- Step 6: the declared length of the candidate at `s`, exact (42_scan.md R176). -/
def ScanInput.packetLen (I : ScanInput) (s : Nat) : Nat := (I.byte (.length s) (s + I.li)).toNat + I.lo

/-- Steps 3 to 8 at candidate start `s` (42_scan.md R173 to R178). -/
def ScanInput.tryCandidate (I : ScanInput) (s : Nat) : Pass :=
  if I.n - s < I.hdr.length then .stop (s, I.n - s)
  else if I.bytes (.header s) s I.hdr.length ≠ I.hdr then .skip (s + 1)
  else if I.n - s < I.li + 1 then .stop (s, I.n - s)
  else if I.n - s < I.packetLen s then .skip (s + 1)
  else if (isChecksumValid (I.bytes (.check s) s (I.packetLen s)) I.spec).valid = false then .skip (s + 1)
  else .packet s (I.packetLen s) (if I.adv then s + I.packetLen s else s + 1)

/-- One pass of the loop from cursor `c`; with no candidate the scan ends as the TAIL policy says (42_scan.md R171,
R179). -/
def ScanInput.pass (I : ScanInput) (c : Nat) : Pass :=
  match I.candidate c with
  | some s => I.tryCandidate s
  | none => .stop (if I.tail then (c, I.n - c) else (I.n, 0))

/-- The loop, for at most the given number of passes; none if they do not suffice. -/
def ScanInput.loop (I : ScanInput) : Nat → Nat → Option (List (Nat × Nat) × (Nat × Nat))
  | 0, _ => none
  | f + 1, c =>
    match I.pass c with
    | .stop rem => some ([], rem)
    | .skip c' => I.loop f c'
    | .packet s L c' =>
      match I.loop f c' with
      | some (P, rem) => some ((s, L) :: P, rem)
      | none => none

/-- `findValidPackets`: the packets in discovery order, and the remainder (42_scan.md R171). With a specification that
acceptance lets through the loop runs at most `n + 1` times (R180), so the default is never taken (log 14). -/
def findValidPackets (I : ScanInput) : List (Nat × Nat) × (Nat × Nat) := (I.loop (I.n + 1) 0).getD ([], (I.n, 0))

/-- The inputs SCAN takes from the state; the policies are the latched ones (42_scan.md R170). -/
def State.scanInput (s : State) : ScanInput :=
  { n := s.bufLen.toNat
    byte := s.bufByte
    hdr := s.header
    li := s.lenIndex.toNat
    lo := s.lenOffset.toNat
    spec := s.spec
    adv := s.latAdv
    tail := s.latTail }

/-- What SCAN computes; OVF tells of more packets than descriptors (42_scan.md R181, R182). -/
def scanResults (s : State) : Results :=
  let r := findValidPackets s.scanInput
  { packets := r.1
    rem := r.2
    flags := { valid := false, rangeFail := false, ovf := decide (s.params.pktMax < r.1.length) }
    value := 0 }

/-- SCAN (42_scan.md R182). -/
def execScan (s : State) : Host.Outcome State Fault Refusal := runCommand .scan scanResults s

end Sys2Proof.Machine
end

