-- ==== Sys2Proof/Machine/Dispatch.lean ====
section
/-! DEFINITION. The dispatch of the five commands to their meanings, one arm each. -/

namespace Sys2Proof.Machine

def exec (i : Instr) (s : State) : Host.Outcome State Fault Refusal :=
  match i with
  | .scan => Sys2Proof.Machine.execScan s
  | .xorsum => Sys2Proof.Machine.execXorsum s
  | .addsum => Sys2Proof.Machine.execAddsum s
  | .b2u => Sys2Proof.Machine.execB2u s
  | .validate => Sys2Proof.Machine.execValidate s

end Sys2Proof.Machine
end

