-- ==== Sys2Proof/Machine/Port.lean ====
section
/-! DEFINITION. The host port's writes, the command register among them, and the engine's turn (20_memory.md,
40_command.md). -/

namespace Sys2Proof.Machine

/-- A write of a word to CMD. While busy it is ignored, whatever the word, and never decoded (40_command.md R126,
60_exceptions.md R204). While idle, an illegal word ends at once in the error completion with code 1 (30_encoding.md
R102, 40_command.md R120, R121), and a command's word runs the command. -/
def cmdWrite (w : Word) (s : State) : Host.Outcome State Fault Refusal :=
  if s.busy then .next s.ignoreWrite
  else
    match decodeWord w with
    | .ok i => exec i s
    | .error _ => .next (s.clearReport.raiseError .illegalCmd)

/-- A write to a register (20_memory.md R75; 10_state.md section 2; 40_command.md R126). -/
def writeReg (r : Reg) (v : Word) (s : State) : Host.Outcome State Fault Refusal :=
  match r with
  | .cmd => cmdWrite v s
  | .ctrl => .next (s.writeCtrl v)
  | .status => .next (s.writeStatus v)
  | .bufLen => .next (s.writeConfig .bufLen v)
  | .hdrLen => .next (s.writeConfig .hdrLen v)
  | .lenIndex => .next (s.writeConfig .lenIndex v)
  | .lenOffset => .next (s.writeConfig .lenOffset v)
  | .ckcfg => .next (s.writeConfig .ckcfg v)
  | .ckOffset => .next (s.writeConfig .ckOffset v)
  | .argStart => .next (s.writeConfig .argStart v)
  | .argLen => .next (s.writeConfig .argLen v)
  | .id => .next s
  | .capBuf => .next s
  | .capHdr => .next s
  | .capPkt => .next s
  | .pktCount => .next s
  | .remStart => .next s
  | .remLen => .next s
  | .resFlags => .next s
  | .resLo => .next s
  | .resHi => .next s

/-- A host write without error, by region: reserved offsets and the DESC window ignore it (20_memory.md R71, R78;
10_state.md R42). -/
def writeData (x : Nat) (n : Size) (v : Word) (s : State) : Host.Outcome State Fault Refusal :=
  match regionOf x with
  | .registers =>
    match regAt x with
    | some r => writeReg r v s
    | none => .next s
  | .hdr => .next (s.writeWindow x n v)
  | .buf => .next (s.writeWindow x n v)
  | .reserved => .next s
  | .desc => .next s

/-- A host write. An error response changes nothing (20_memory.md R72, R73); the response of a write carries the data 0
(log 5). -/
def hostWrite (x : Addr) (n : Size) (v : Word) (s : State) : Host.Outcome State Fault Refusal :=
  if accessOk x.toNat n then writeData x.toNat n v (s.respond 0 false) else .next (s.respond 0 true)

/-- One host access. -/
def hostAccess (a : Access) (s : State) : Host.Outcome State Fault Refusal :=
  match a with
  | .read x n => .next (hostRead x n s)
  | .write x n v => hostWrite x n v s

/-- The engine's turn: the completion of the pending command; an idle engine has no step enabled (40_command.md R124,
R125). -/
def engineStep (s : State) : Host.Outcome State Fault Refusal :=
  match s.pending with
  | some i => exec i s
  | none => .next s

/-- One event, already taken off the schedule. -/
def runEvent (e : Event) (s : State) : Host.Outcome State Fault Refusal :=
  match e with
  | .host a => hostAccess a s
  | .engine => engineStep s
  | .reset => .next s.applyReset
  | .hostInReset _ => .fault .accessDuringReset

/-- Take the first event off the schedule. -/
def State.popEvent (s : State) : State := { s with schedule := s.schedule.tail }

/-- The host's access that writes a word to CMD. -/
def cmdEvent (w : Word) : Event := .host (.write cmdAddr .b4 w)

/-- The offset in the aperture of a system address, if the platform routes it to the block (20_memory.md R71;
`PFS_BASE`). -/
def apertureOffset (p : Params) (sysAddr : Nat) : Option Addr :=
  if p.pfsBase ≤ sysAddr ∧ sysAddr < p.pfsBase + 0x20000 then some (BitVec.ofNat 17 (sysAddr - p.pfsBase)) else none

end Sys2Proof.Machine
end

