-- ==== Sys2Proof/Machine/Step.lean ====
section
/-! DEFINITION. One step of the machine: the next event of the schedule, or, with nothing scheduled, the engine's
enabled completion (20_memory.md R79, R81; 40_command.md R124; log 3). -/

namespace Sys2Proof.Machine

/-- One atomic step. With no event left the host does nothing, and weak fairness lets the engine take its enabled
completion; an idle block then stays as it is (40_command.md R124). -/
def step (s : State) : Host.Outcome State Fault Refusal :=
  match s.schedule with
  | e :: _ => runEvent e s.popEvent
  | [] => engineStep s

/-- The state whose next event is the host's write of this command word to CMD, which is where a command comes from
(10_state.md R21, R27; log 2). -/
def State.withFetchWord (s : State) (nbits w : Nat) : State :=
  { s with schedule := cmdEvent (BitVec.ofNat 32 (w % 2 ^ nbits)) :: s.schedule }

end Sys2Proof.Machine
end

