-- ==== Sys2Proof/Machine/HostProgram.lean ====
section
/-! DEFINITION. The notation for host programs of 30_encoding.md R105, as events of the schedule. A driver's loop is
control flow in the host, so POLL is given for a number of repeats together with the condition that ends it (log 22). -/

namespace Sys2Proof.Machine.HostProgram

/-- `WR32 off, v` (30_encoding.md R105). -/
def wr32 (off : Addr) (v : Word) : Event := .host (.write off .b4 v)

/-- `WR16 off, v`. -/
def wr16 (off : Addr) (v : Word) : Event := .host (.write off .b2 v)

/-- `WR8 off, v`. -/
def wr8 (off : Addr) (v : Word) : Event := .host (.write off .b1 v)

/-- `RD32 off`. -/
def rd32 (off : Addr) : Event := .host (.read off .b4)

/-- `RD16 off`. -/
def rd16 (off : Addr) : Event := .host (.read off .b2)

/-- `RD8 off`. -/
def rd8 (off : Addr) : Event := .host (.read off .b1)

/-- `CMD name`: the word of the command to CMD. -/
def cmd (i : Instr) : Event := wr32 cmdAddr (encodeWord i)

/-- `CLEAR`: clear DONE, ERR, ERRCODE and WBUSY. -/
def clear : Event := wr32 0x014 0x0000000E

/-- `LOADBUF k, …`: bytes to BUF[k], BUF[k+1], …, in that order. -/
def loadBuf (k : Nat) : List Byte → List Event
  | [] => []
  | b :: bs => wr8 (BitVec.ofNat 17 (bufBase + k)) (b.setWidth 32) :: loadBuf (k + 1) bs

/-- `LOADHDR …`: bytes to HDR[k], HDR[k+1], …; the notation's LOADHDR starts at 0. -/
def loadHdr (k : Nat) : List Byte → List Event
  | [] => []
  | b :: bs => wr8 (BitVec.ofNat 17 (hdrBase + k)) (b.setWidth 32) :: loadHdr (k + 1) bs

/-- `POLL off, mask, val`, repeated `k` times. -/
def poll (off : Addr) (k : Nat) : List Event := List.replicate k (rd32 off)

/-- The condition that ends `POLL off, mask, val`. -/
def pollDone (r : Response) (mask val : Word) : Bool := r.data &&& mask == val

/-- `WAIT`: poll STATUS, repeated `k` times; it ends when BUSY reads 0. -/
def wait (k : Nat) : List Event := poll 0x014 k

/-- An access to a system address: it reaches the block only inside the aperture (20_memory.md R71). -/
def onBus (p : Params) (sysAddr : Nat) (access : Addr → Access) : List Event :=
  match apertureOffset p sysAddr with
  | some x => [.host (access x)]
  | none => []

end Sys2Proof.Machine.HostProgram
end

