-- ==== Sys2Proof/Safety.lean ====
section
/-! DEFINITION. What a consistent state of PFS-1 is, in the terms the claims use. -/

namespace Sys2Proof.Machine

/-- The invariants of STATUS (10_state.md R25): BUSY excludes DONE and ERR, and ERRCODE is 0 exactly when ERR is 0. -/
abbrev State.statusConsistent (s : State) : Prop :=
  (s.busy = true → s.status.done = false ∧ s.status.err = false) ∧
  (s.status.err = false ↔ s.status.errCode = .noError)

/-- What acceptance checked still holds of the command that runs (40_command.md R121, R126). -/
abbrev State.pendingChecked (s : State) : Prop := ∀ i ∈ s.pending, checkCommand i s = .noError

/-- The storage is in canonical form and within the build's capacities (10_state.md R43 to R45). -/
abbrev State.storageConsistent (s : State) : Prop :=
  Memory.wf s.mem = true ∧ Memory.within s.params s.mem = true ∧
  cellsRiseFrom 0 s.desc = true ∧ (∀ d ∈ s.desc, d.1 < s.params.pktMax)

/-- The results can be those of some completion: RANGE_FAIL excludes VALID (10_state.md R39), and PKT_COUNT is within
BUF_MAX (R37). -/
abbrev State.resultsConsistent (s : State) : Prop :=
  (s.resFlags.rangeFail = true → s.resFlags.valid = false) ∧ s.pktCount.toNat ≤ s.params.bufMax

/-- The invariant of the machine: a legal build, and the four consistencies. -/
abbrev State.Inv (s : State) : Prop :=
  s.params.legal = true ∧ s.statusConsistent ∧ s.pendingChecked ∧ s.storageConsistent ∧ s.resultsConsistent

end Sys2Proof.Machine
end

