-- ==== Sys2Proof/Certificates/Slice0/Obligations.lean ====
section
/-! DEFINITION. The statements for the provers. The vocabulary of `Sys2Proof.Claims` is written from the spec's own
formulas, not from the model's functions. -/

namespace Sys2Proof.Claims

open Sys2Proof.Machine

/-! ### Vocabulary -/

/-- `b[0] xor b[1] xor …`, 0 for no bytes (41_checksum.md R140). -/
def xorOf (b : List Byte) : Byte := b.foldr (fun x acc => x ^^^ acc) 0

/-- `b[0] + b[1] + …`, exact (41_checksum.md R141). -/
def sumOf (b : List Byte) : Nat := (b.map BitVec.toNat).sum

/-- The two sums of 41_checksum.md R142. -/
def uintOf (b : List Byte) : Endian → Nat
  | .big => (Finset.range b.length).sum (fun i => (b.getD i 0).toNat * 2 ^ (8 * (b.length - 1 - i)))
  | .little => (Finset.range b.length).sum (fun i => (b.getD i 0).toNat * 2 ^ (8 * i))

/-- The slice is long enough for the specification (41_checksum.md R143, R144). -/
def fits (b : List Byte) : ChecksumSpec → Prop
  | .xor off => off + 1 ≤ b.length
  | .add size off _ => size ≤ b.length ∧ off ≤ b.length - size

/-- The covered bytes' checksum is the stored one (41_checksum.md R143, R144). -/
def stored (b : List Byte) : ChecksumSpec → Prop
  | .xor off => b.getLast? = some (xorOf ((b.take (b.length - 1)).drop off))
  | .add size off e =>
    sumOf ((b.take (b.length - size)).drop off) % 2 ^ (8 * size) = uintOf (b.drop (b.length - size)) e

/-- A specification that acceptance lets through: SIZE is 1 to 8 (40_command.md R121 code 5). -/
def specLegal : ChecksumSpec → Prop
  | .xor _ => True
  | .add size _ _ => 1 ≤ size ∧ size ≤ 8

/-- The specification of 41_checksum.md R145. -/
def specOf (s : State) : ChecksumSpec :=
  if s.ckcfg.mode = .xor then .xor s.ckOffset.toNat else .add s.ckcfg.size.toNat s.ckOffset.toNat s.ckcfg.endian

/-- A valid frame of `B` at `a`, of length `L` (42_scan.md R183 items 1 and 5). -/
def FrameAt (B H : List Byte) (li lo : Nat) (spec : ChecksumSpec) (a L : Nat) : Prop :=
  a + H.length ≤ B.length ∧ (B.drop a).take H.length = H ∧ a + li < B.length ∧
  L = (B.getD (a + li) 0).toNat + lo ∧ a + L ≤ B.length ∧
  fits ((B.drop a).take L) spec ∧ stored ((B.drop a).take L) spec

/-- The scan's inputs over a buffer all of whose bytes are defined (42_scan.md R170). -/
def listInput (B H : List Byte) (li lo : Nat) (spec : ChecksumSpec) (adv tail : Bool) : ScanInput :=
  { n := B.length, byte := fun _ k => B.getD k 0, hdr := H, li := li, lo := lo, spec := spec, adv := adv, tail := tail }

/-- The conditions of `Check`, by code, for a word written to CMD (40_command.md R121, with the words of
30_encoding.md R101). -/
def violates (w : Word) (s : State) : Nat → Prop
  | 1 => ¬ (w = 1 ∨ w = 2 ∨ w = 3 ∨ w = 4 ∨ w = 5)
  | 2 => s.params.bufMax < s.bufLen.toNat
  | 3 => w = 1 ∧ s.hdrLen.toNat = 0
  | 4 => w = 1 ∧ s.params.hdrMax < s.hdrLen.toNat
  | 5 => (w = 3 ∨ ((w = 1 ∨ w = 5) ∧ s.ckcfg.mode = .add)) ∧ (s.ckcfg.size.toNat = 0 ∨ 8 < s.ckcfg.size.toNat)
  | 6 => (w = 2 ∨ w = 3 ∨ w = 4 ∨ w = 5) ∧ s.bufLen.toNat < s.argStart.toNat + s.argLen.toNat
  | 7 => w = 4 ∧ 8 < s.argLen.toNat
  | _ => False

/-- The error completion of 40_command.md R123 after the clearing of R120: the report changes and nothing else. -/
def refusedWith (s : State) (c : ErrCode) : State :=
  { s with status := { done := true, err := true, wbusy := s.status.wbusy, errCode := c } }

/-- The acceptance of 40_command.md R122 after the clearing of R120. -/
def acceptedAs (s : State) (i : Instr) : State :=
  { s with
    pending := some i, latAdv := s.ctrl.adv, latTail := s.ctrl.tail
    status := { done := false, err := false, wbusy := s.status.wbusy, errCode := .noError } }

/-- `t` is a range command accepted in `s` and completed with these flags and this value (40_command.md R125, R127).
What the policies latched for it hold afterwards and the model's draw number are not said. -/
def completedAs (s t : State) (f : ResFlags) (v : Nat) : Prop :=
  t = { s with
    pktCount := 0, remStart := 0, remLen := 0, resFlags := f
    resLo := BitVec.ofNat 32 v, resHi := BitVec.ofNat 32 (v / 2 ^ 32)
    pending := none, latAdv := t.latAdv, latTail := t.latTail
    status := { done := true, err := false, wbusy := s.status.wbusy, errCode := .noError }
    draws := t.draws }

/-- `A` can be the bytes of the argument range: every defined byte is the one BUF holds; an undefined one is any byte
(41_checksum.md R151, 70_reset_and_hazards.md R232). -/
def rangeReads (s : State) (A : List Byte) : Prop :=
  A.length = s.argLen.toNat ∧
  ∀ j b, j < A.length → s.bufDefined (s.argStart.toNat + j) = some b → A[j]? = some b

/-- Every byte of `BUF[0 .. BUF_LEN)` is defined, and `B` is those bytes. -/
def bufferIs (s : State) (B : List Byte) : Prop :=
  B.length = s.bufLen.toNat ∧ ∀ k, k < B.length → s.bufDefined k = B[k]?

/-- `HDR[0 .. HDR_LEN)` is `H`, within capacity and not empty. -/
def headerIs (s : State) (H : List Byte) : Prop :=
  H.length = s.hdrLen.toNat ∧ H ≠ [] ∧ H.length ≤ s.params.hdrMax ∧ ∀ k, k < H.length → H[k]? = some (s.hdrByte k)

/-- The limits SCAN's checks put on the configuration (42_scan.md R170, R182). -/
def scanLegal (s : State) : Prop :=
  s.bufLen.toNat ≤ s.params.bufMax ∧ 1 ≤ s.hdrLen.toNat ∧ s.hdrLen.toNat ≤ s.params.hdrMax ∧ specLegal (specOf s)

/-- The six result registers agree. -/
def sameResults (s t : State) : Prop :=
  t.pktCount = s.pktCount ∧ t.remStart = s.remStart ∧ t.remLen = s.remLen ∧ t.resFlags = s.resFlags ∧
  t.resLo = s.resLo ∧ t.resHi = s.resHi

/-- The eight configuration registers that are commands' inputs agree (40_command.md R126). -/
def sameConfig (s t : State) : Prop :=
  t.bufLen = s.bufLen ∧ t.hdrLen = s.hdrLen ∧ t.lenIndex = s.lenIndex ∧ t.lenOffset = s.lenOffset ∧
  t.ckcfg = s.ckcfg ∧ t.ckOffset = s.ckOffset ∧ t.argStart = s.argStart ∧ t.argLen = s.argLen

/-- Every byte of the HDR and BUF windows reads alike, and every descriptor. -/
def sameStorage (s t : State) : Prop :=
  (∀ x, Memory.read t.mem x = Memory.read s.mem x) ∧ (∀ k, cellsGet t.desc k = cellsGet s.desc k)

/-- Next comes a 4-byte host write of `v` to the offset `x`. -/
def nextWrites (s : State) (x : Addr) (v : Word) : Prop := ∃ rest, s.schedule = .host (.write x .b4 v) :: rest

/-- Next comes a reset. -/
def nextResets (s : State) : Prop := ∃ rest, s.schedule = .reset :: rest

/-- Next comes the engine's turn (40_command.md R124). -/
def nextEngine (s : State) : Prop := s.schedule = [] ∨ ∃ rest, s.schedule = .engine :: rest

/-- An access that gets an error response (20_memory.md R72): not naturally aligned, or not 4 bytes wide in the
registers or the DESC window. -/
def accessBad (x : Addr) (n : Size) : Prop :=
  x.toNat % n.bytes ≠ 0 ∨ ((x.toNat < 0x100 ∨ (0x8000 ≤ x.toNat ∧ x.toNat < 0x10000)) ∧ n ≠ .b4)

/-- The HDR or BUF window holds a byte at this offset (20_memory.md R76, R77). -/
def holdsByte (p : Params) (x : Nat) : Prop :=
  (0x100 ≤ x ∧ x < 0x200 ∧ x < 0x100 + p.hdrMax) ∨ (0x10000 ≤ x ∧ x < 0x10000 + p.bufMax)

/-- An offset of the HDR or BUF window (20_memory.md R71). -/
def inWindow (x : Nat) : Prop := (0x100 ≤ x ∧ x < 0x200) ∨ 0x10000 ≤ x

/-- The offsets of the eight configuration registers (10_state.md section 2). -/
def configOffset (x : Nat) : Prop :=
  x = 0x20 ∨ x = 0x24 ∨ x = 0x28 ∨ x = 0x2C ∨ x = 0x30 ∨ x = 0x34 ∨ x = 0x38 ∨ x = 0x3C

end Sys2Proof.Claims

open Sys2Proof Sys2Proof.Machine Sys2Proof.Claims

/-! ### Decoding and encoding -/

/-- 30_encoding.md R101: each of the five commands is selected by exactly its word. -/
def Obligations.EachCommandHasExactlyItsWord : Prop :=
  ∀ w i, decodeWord w = .ok i ↔
    (w = 0x00000001 ∧ i = .scan) ∨ (w = 0x00000002 ∧ i = .xorsum) ∨ (w = 0x00000003 ∧ i = .addsum) ∨
    (w = 0x00000004 ∧ i = .b2u) ∨ (w = 0x00000005 ∧ i = .validate)

/-- Decoding and encoding agree, over every byte string: the strings that decode to a command are exactly its
encoding (30_encoding.md R100 to R102; the byte order is 20_memory.md R74's). -/
def Obligations.DecodingInvertsEncodingOnAllBytes : Prop :=
  (∀ i, i.wf = true → decodeBytes (encode i) = .ok i) ∧
  (∀ bs i, decodeBytes bs = .ok i → bs = encode i) ∧
  (∀ bs, bs.length = 4 → (∀ i, bs ≠ encode i) → decodeBytes bs = .error .illegalCmd)

/-- 30_encoding.md R100: a word decodes to a command exactly when its reserved bits are 0 and its opcode is one of the
five; the fields lose no bit of the word. -/
def Obligations.WellFormedFieldsAreTheDecodableWords : Prop :=
  ∀ w, (Cmd32.ofWord w).toWord = w ∧ ((Cmd32.ofWord w).wf = true ↔ ∃ i, decodeWord w = .ok i)

/-! ### Steps and the commands they run -/

/-- A write of a command's word to CMD of an idle block runs that command, with the response given and the event taken
off the schedule; `withFetchWord` places such a write (40_command.md R120). That the response's data is 0 and that a
command's word comes from `withFetchWord` are the model's choices (logs 5 and 2). -/
def Obligations.StepRunsTheDecodedCommand : Prop :=
  (∀ s w i rest, s.pending = none → s.schedule = .host (.write 0x018 .b4 w) :: rest → decodeWord w = .ok i →
    step s = exec i { s with schedule := rest, resp := { data := 0, error := false } }) ∧
  (∀ (s : State) (nbits w : Nat) (i : Instr), s.pending = none → nbits ≤ 32 → decodeTableWord nbits w = some i →
    step (s.withFetchWord nbits w) = exec i { s with resp := { data := 0, error := false } })

/-- While a command is pending, the engine's turn completes it; with nothing scheduled the turn is the engine's
(40_command.md R124, R125; log 3). -/
def Obligations.EngineTurnRunsThePendingCommand : Prop :=
  ∀ s i, s.pending = some i →
    (s.schedule = [] → step s = exec i s) ∧
    (∀ rest, s.schedule = .engine :: rest → step s = exec i { s with schedule := rest })

/-- 30_encoding.md R102: every other word, written to CMD of an idle block, ends at once in an error completion with
code 1 and changes nothing else; of a busy block it is ignored, with WBUSY set. -/
def Obligations.EveryOtherWordIsIllegal : Prop :=
  ∀ s w rest, ¬ (w = 1 ∨ w = 2 ∨ w = 3 ∨ w = 4 ∨ w = 5) →
    s.schedule = .host (.write 0x018 .b4 w) :: rest →
    decodeWord w = .error .illegalCmd ∧ ∃ t, step s = .next t ∧ t.resp.error = false ∧
      (s.pending = none → t = refusedWith { s with schedule := rest, resp := t.resp } .illegalCmd) ∧
      (s.pending ≠ none →
        t = { s with schedule := rest, resp := t.resp, status := { s.status with wbusy := true } })

/-- 40_command.md R121, R123 and 60_exceptions.md R203: of the conditions that hold for a word written to CMD of an
idle block the one of the lowest code is reported, and nothing else changes. `irq` rises if IE is 1. -/
def Obligations.LowestFailingCheckIsReported : Prop :=
  ∀ s w k rest, s.pending = none → s.schedule = .host (.write 0x018 .b4 w) :: rest →
    violates w s k → (∀ j, j < k → ¬ violates w s j) →
    ∃ t c, step s = .next t ∧ ErrCode.toNat c = k ∧ t.resp.error = false ∧
      t = refusedWith { s with schedule := rest, resp := t.resp } c ∧ t.irq = s.ctrl.ie

/-- 40_command.md R120, R122: a word none of whose conditions hold is accepted: the command is pending, the policies are
latched, the report is cleared, STATUS.BUSY reads 1, and the completion is enabled. -/
def Obligations.LegalCommandIsAccepted : Prop :=
  ∀ s w rest, s.pending = none → s.schedule = .host (.write 0x018 .b4 w) :: rest → (∀ k, ¬ violates w s k) →
    ∃ i t u, decodeWord w = .ok i ∧ step s = .next t ∧ t.resp.error = false ∧
      t = acceptedAs { s with schedule := rest, resp := t.resp } i ∧
      t.statusWord.getLsbD 0 = true ∧ exec i t = .next u ∧ u.pending = none

/-! ### What each command does -/

/-- 41_checksum.md R147: XORSUM on an idle block is accepted and then completes with the exclusive-or of the range, or
is refused with code 2 or 6; nothing else changes. -/
def Obligations.XorsumWritesTheXorOfTheRange : Prop :=
  decodeWord 0x00000002 = .ok .xorsum ∧
  ∀ s, s.pending = none →
    (s.params.bufMax < s.bufLen.toNat → exec .xorsum s = .next (refusedWith s .bufLenRange)) ∧
    (s.bufLen.toNat ≤ s.params.bufMax → s.bufLen.toNat < s.argStart.toNat + s.argLen.toNat →
      exec .xorsum s = .next (refusedWith s .argRange)) ∧
    (s.bufLen.toNat ≤ s.params.bufMax → s.argStart.toNat + s.argLen.toNat ≤ s.bufLen.toNat →
      ∃ A t, rangeReads s A ∧ exec .xorsum s = .next (acceptedAs s .xorsum) ∧
        exec .xorsum (acceptedAs s .xorsum) = .next t ∧
        completedAs s t { valid := false, rangeFail := false, ovf := false } (xorOf A).toNat)

/-- 41_checksum.md R148: ADDSUM completes with the sum of the range modulo `2^(8*SIZE)`, whatever MODE and ENDIAN are,
or is refused with code 2, 5 or 6; nothing else changes. -/
def Obligations.AddsumWritesTheSumOfTheRange : Prop :=
  decodeWord 0x00000003 = .ok .addsum ∧
  ∀ s, s.pending = none →
    (s.params.bufMax < s.bufLen.toNat → exec .addsum s = .next (refusedWith s .bufLenRange)) ∧
    (s.bufLen.toNat ≤ s.params.bufMax → s.ckcfg.size.toNat = 0 ∨ 8 < s.ckcfg.size.toNat →
      exec .addsum s = .next (refusedWith s .badCkSize)) ∧
    (s.bufLen.toNat ≤ s.params.bufMax → 1 ≤ s.ckcfg.size.toNat → s.ckcfg.size.toNat ≤ 8 →
      s.bufLen.toNat < s.argStart.toNat + s.argLen.toNat → exec .addsum s = .next (refusedWith s .argRange)) ∧
    (s.bufLen.toNat ≤ s.params.bufMax → 1 ≤ s.ckcfg.size.toNat → s.ckcfg.size.toNat ≤ 8 →
      s.argStart.toNat + s.argLen.toNat ≤ s.bufLen.toNat →
      ∃ A t, rangeReads s A ∧ exec .addsum s = .next (acceptedAs s .addsum) ∧
        exec .addsum (acceptedAs s .addsum) = .next t ∧
        completedAs s t { valid := false, rangeFail := false, ovf := false }
          (sumOf A % 2 ^ (8 * s.ckcfg.size.toNat)))

/-- 41_checksum.md R149: B2U completes with the range as an unsigned integer in the byte order ENDIAN, whatever MODE
and SIZE are, or is refused with code 2, 6 or 7; nothing else changes. -/
def Obligations.B2uWritesTheIntegerOfTheRange : Prop :=
  decodeWord 0x00000004 = .ok .b2u ∧
  ∀ s, s.pending = none →
    (s.params.bufMax < s.bufLen.toNat → exec .b2u s = .next (refusedWith s .bufLenRange)) ∧
    (s.bufLen.toNat ≤ s.params.bufMax → s.bufLen.toNat < s.argStart.toNat + s.argLen.toNat →
      exec .b2u s = .next (refusedWith s .argRange)) ∧
    (s.bufLen.toNat ≤ s.params.bufMax → s.argStart.toNat + s.argLen.toNat ≤ s.bufLen.toNat → 8 < s.argLen.toNat →
      exec .b2u s = .next (refusedWith s .b2uTooLong)) ∧
    (s.bufLen.toNat ≤ s.params.bufMax → s.argStart.toNat + s.argLen.toNat ≤ s.bufLen.toNat → s.argLen.toNat ≤ 8 →
      ∃ A t, rangeReads s A ∧ exec .b2u s = .next (acceptedAs s .b2u) ∧
        exec .b2u (acceptedAs s .b2u) = .next t ∧
        completedAs s t { valid := false, rangeFail := false, ovf := false } (uintOf A s.ckcfg.endian))

/-- 41_checksum.md R150: VALIDATE completes with VALID and RANGE_FAIL of the range taken as one packet, or is refused
with code 2, 5 (additive mode only) or 6; nothing else changes. -/
def Obligations.ValidateWritesTheVerdictOnTheRange : Prop :=
  decodeWord 0x00000005 = .ok .validate ∧
  ∀ s, s.pending = none →
    (s.params.bufMax < s.bufLen.toNat → exec .validate s = .next (refusedWith s .bufLenRange)) ∧
    (s.bufLen.toNat ≤ s.params.bufMax → ¬ specLegal (specOf s) → exec .validate s = .next (refusedWith s .badCkSize)) ∧
    (s.bufLen.toNat ≤ s.params.bufMax → specLegal (specOf s) →
      s.bufLen.toNat < s.argStart.toNat + s.argLen.toNat → exec .validate s = .next (refusedWith s .argRange)) ∧
    (s.bufLen.toNat ≤ s.params.bufMax → specLegal (specOf s) →
      s.argStart.toNat + s.argLen.toNat ≤ s.bufLen.toNat →
      ∃ A f t, rangeReads s A ∧
        (f.valid = true ↔ fits A (specOf s) ∧ stored A (specOf s)) ∧
        (f.rangeFail = true ↔ ¬ fits A (specOf s)) ∧ f.ovf = false ∧
        exec .validate s = .next (acceptedAs s .validate) ∧
        exec .validate (acceptedAs s .validate) = .next t ∧ completedAs s t f 0)

/-- 42_scan.md R181, R182: SCAN is accepted and completes with the packets and the remainder of `findValidPackets`, or
is refused with code 2, 3, 4 or 5. The table gets the first PKT_MAX packets and keeps its other entries; OVF tells of
more; the packets and the remainder lie in the buffer; nothing else of the block changes. What the latched policies hold
after the completion is not said. -/
def Obligations.ScanWritesPacketsAndRemainder : Prop :=
  decodeWord 0x00000001 = .ok .scan ∧
  ∀ s, s.pending = none →
    (s.params.bufMax < s.bufLen.toNat → exec .scan s = .next (refusedWith s .bufLenRange)) ∧
    (s.bufLen.toNat ≤ s.params.bufMax → s.hdrLen.toNat = 0 → exec .scan s = .next (refusedWith s .emptyHeader)) ∧
    (s.bufLen.toNat ≤ s.params.bufMax → 1 ≤ s.hdrLen.toNat → s.params.hdrMax < s.hdrLen.toNat →
      exec .scan s = .next (refusedWith s .hdrTooLong)) ∧
    (s.bufLen.toNat ≤ s.params.bufMax → 1 ≤ s.hdrLen.toNat → s.hdrLen.toNat ≤ s.params.hdrMax →
      ¬ specLegal (specOf s) → exec .scan s = .next (refusedWith s .badCkSize)) ∧
    (scanLegal s →
      ∃ P r l t, findValidPackets (acceptedAs s .scan).scanInput = (P, (r, l)) ∧
        exec .scan s = .next (acceptedAs s .scan) ∧ exec .scan (acceptedAs s .scan) = .next t ∧
        t = { s with
          pktCount := BitVec.ofNat 32 P.length, remStart := BitVec.ofNat 32 r, remLen := BitVec.ofNat 32 l
          resFlags := { valid := false, rangeFail := false, ovf := decide (s.params.pktMax < P.length) }
          resLo := 0, resHi := 0, desc := t.desc
          pending := none, latAdv := t.latAdv, latTail := t.latTail
          status := { done := true, err := false, wbusy := s.status.wbusy, errCode := .noError }
          draws := t.draws } ∧
        (∀ k, cellsGet t.desc k =
          if k < min P.length s.params.pktMax then
            (P[k]?).map (fun q => { start := BitVec.ofNat 32 q.1, len := BitVec.ofNat 32 q.2 })
          else cellsGet s.desc k) ∧
        P.length ≤ s.bufLen.toNat ∧ r + l = s.bufLen.toNat ∧
        (∀ q ∈ P, q.1 + q.2 ≤ s.bufLen.toNat) ∧
        (s.params.bufMax ≤ s.params.pktMax → t.resFlags.ovf = false))

/-- 42_scan.md R183 item 5, with the one-byte advance: SCAN of a buffer whose bytes are all defined reports exactly the
starts at which a frame is valid, in increasing order. -/
def Obligations.ScanReportsExactlyTheValidFrames : Prop :=
  ∀ s B H, s.pending = none → scanLegal s → bufferIs s B → headerIs s H → s.ctrl.adv = false →
    ∃ (P : List (Nat × Nat)) (t : State),
      exec .scan s = .next (acceptedAs s .scan) ∧ exec .scan (acceptedAs s .scan) = .next t ∧
      (∀ a L, (a, L) ∈ P ↔ FrameAt B H s.lenIndex.toNat s.lenOffset.toNat (specOf s) a L) ∧
      P.Pairwise (fun p q => p.1 < q.1) ∧
      t.pktCount.toNat = P.length ∧
      (∀ k, k < P.length → k < s.params.pktMax →
        cellsGet t.desc k =
          (P[k]?).map (fun q => { start := BitVec.ofNat 32 q.1, len := BitVec.ofNat 32 q.2 }))

/-- 42_scan.md R183 items 2 and 5, with the advance past the packet: SCAN reports exactly the valid frames that start in
no reported packet, and the reported packets do not overlap. -/
def Obligations.ScanPastPacketsReportsTheOuterFrames : Prop :=
  ∀ s B H, s.pending = none → scanLegal s → bufferIs s B → headerIs s H → s.ctrl.adv = true →
    ∃ (P : List (Nat × Nat)) (t : State),
      exec .scan s = .next (acceptedAs s .scan) ∧ exec .scan (acceptedAs s .scan) = .next t ∧
      (∀ a L, (a, L) ∈ P ↔
        FrameAt B H s.lenIndex.toNat s.lenOffset.toNat (specOf s) a L ∧
          ∀ q ∈ P, ¬ (q.1 < a ∧ a < q.1 + q.2)) ∧
      P.Pairwise (fun p q => p.1 + p.2 ≤ q.1) ∧
      t.pktCount.toNat = P.length ∧
      (∀ k, k < P.length → k < s.params.pktMax →
        cellsGet t.desc k =
          (P[k]?).map (fun q => { start := BitVec.ofNat 32 q.1, len := BitVec.ofNat 32 q.2 }))

/-! ### The checksum functions -/

/-- 41_checksum.md R140: the exclusive-or of all bytes, 0 of none: each bit is the parity of the bytes that have it. -/
def Obligations.XorChecksumIsTheBitwiseParity : Prop :=
  xorChecksum [] = 0 ∧
  ∀ b : List Byte, xorChecksum b = xorOf b ∧
    ∀ i, i < 8 → (xorChecksum b).getLsbD i = decide (b.countP (fun x => x.getLsbD i) % 2 = 1)

/-- 41_checksum.md R141: the sum modulo `2^(8*size)`; with a legal size it fits 64 bits, and an accumulator of any width
of at least `8*size` bits gives the same value. -/
def Obligations.AddChecksumIsTheSumModulo : Prop :=
  ∀ (b : List Byte) size, 1 ≤ size → size ≤ 8 →
    addChecksum b size = sumOf b % 2 ^ (8 * size) ∧ addChecksum b size < 2 ^ 64 ∧
    ∀ w, 8 * size ≤ w →
      addChecksum b size = b.foldl (fun acc x => (acc + x.toNat) % 2 ^ w) 0 % 2 ^ (8 * size)

/-- 41_checksum.md R142: the two positional sums, below `2^(8*m)`. -/
def Obligations.BytesToUintIsThePositionalSum : Prop :=
  ∀ (b : List Byte) e, bytesToUint b e = uintOf b e ∧ bytesToUint b e < 2 ^ (8 * b.length)

/-- 41_checksum.md R143: `isChecksumValid` with `XOR(off)`, its two corner cases among them. -/
def Obligations.XorValidityFollowsItsRule : Prop :=
  ∀ (b : List Byte) off,
    (b.length < off + 1 → isChecksumValid b (.xor off) = { valid := false, rangeFail := true }) ∧
    (off + 1 ≤ b.length →
      (isChecksumValid b (.xor off)).rangeFail = false ∧
      ((isChecksumValid b (.xor off)).valid = true ↔
        b.getLast? = some (xorOf ((b.take (b.length - 1)).drop off)))) ∧
    (off + 1 = b.length → ((isChecksumValid b (.xor off)).valid = true ↔ b.getLast? = some 0)) ∧
    (b = [] → (isChecksumValid b (.xor off)).rangeFail = true)

/-- 41_checksum.md R144: `isChecksumValid` with `ADD(size, off, e)`, its corner case of an empty covered range among
them. -/
def Obligations.AddValidityFollowsItsRule : Prop :=
  ∀ (b : List Byte) size off e, 1 ≤ size → size ≤ 8 →
    (b.length < size ∨ b.length - size < off →
      isChecksumValid b (.add size off e) = { valid := false, rangeFail := true }) ∧
    (size ≤ b.length → off ≤ b.length - size →
      (isChecksumValid b (.add size off e)).rangeFail = false ∧
      ((isChecksumValid b (.add size off e)).valid = true ↔
        sumOf ((b.take (b.length - size)).drop off) % 2 ^ (8 * size) = uintOf (b.drop (b.length - size)) e)) ∧
    (size ≤ b.length → off = b.length - size →
      ((isChecksumValid b (.add size off e)).valid = true ↔ uintOf (b.drop (b.length - size)) e = 0))

/-- 41_checksum.md R152: the six laws. -/
def Obligations.ChecksumLawsHold : Prop :=
  (∀ b, isChecksumValid (b ++ [xorChecksum b]) (.xor 0) = { valid := true, rangeFail := false }) ∧
  (∀ b off, off + 1 ≤ b.length → ((isChecksumValid b (.xor off)).valid = true ↔ xorChecksum (b.drop off) = 0)) ∧
  (∀ b size, 1 ≤ size → size ≤ 8 → addChecksum b size = sumOf b % 2 ^ (8 * size)) ∧
  (∀ b b' : List Byte, b.Perm b' →
    xorChecksum b = xorChecksum b' ∧ (∀ size, addChecksum b size = addChecksum b' size) ∧
    (∀ (pre : List Byte) z, isChecksumValid (pre ++ b ++ [z]) (.xor pre.length)
      = isChecksumValid (pre ++ b' ++ [z]) (.xor pre.length)) ∧
    (∀ (pre post : List Byte) e, isChecksumValid (pre ++ b ++ post) (.add post.length pre.length e)
      = isChecksumValid (pre ++ b' ++ post) (.add post.length pre.length e))) ∧
  (∀ b, bytesToUint b .little = bytesToUint b.reverse .big) ∧
  (∀ b size off, 1 ≤ size → size ≤ 8 →
    isChecksumValid b (.add size off .little) =
      isChecksumValid (b.take (b.length - size) ++ (b.drop (b.length - size)).reverse) (.add size off .big))

/-! ### The scan -/

/-- 42_scan.md R180: every pass returns or moves the cursor strictly forward within the buffer, `n + 1` passes suffice,
every packet is a nonempty part of the buffer, the starts strictly increase, there are at most `n`, and no byte outside
the buffer has an effect. -/
def Obligations.ScanTerminatesWithinTheBuffer : Prop :=
  ∀ I : ScanInput, specLegal I.spec →
    (∀ c c', c ≤ I.n → (I.pass c = .skip c' ∨ ∃ a L, I.pass c = .packet a L c') → c < c' ∧ c' ≤ I.n) ∧
    (∃ r, I.loop (I.n + 1) 0 = some r ∧ findValidPackets I = r) ∧
    (∀ q ∈ (findValidPackets I).1, q.1 < I.n ∧ 1 ≤ q.2 ∧ q.2 ≤ I.n - q.1) ∧
    (findValidPackets I).1.Pairwise (fun p q => p.1 < q.1) ∧
    (findValidPackets I).1.length ≤ I.n ∧
    (∀ byte' : ReadTag → Nat → Byte, (∀ t k, k < I.n → byte' t k = I.byte t k) →
      findValidPackets { I with byte := byte' } = findValidPackets I)

/-- 42_scan.md R183 items 1 and 2: every reported packet is a valid frame; starts strictly increase; with the advance
past the packet, packets do not overlap. -/
def Obligations.EveryReportedPacketIsAValidFrame : Prop :=
  ∀ B H li lo spec adv tail, H ≠ [] → specLegal spec →
    (∀ q ∈ (findValidPackets (listInput B H li lo spec adv tail)).1, FrameAt B H li lo spec q.1 q.2) ∧
    (findValidPackets (listInput B H li lo spec adv tail)).1.Pairwise (fun p q => p.1 < q.1) ∧
    (adv = true →
      (findValidPackets (listInput B H li lo spec adv tail)).1.Pairwise (fun p q => p.1 + p.2 ≤ q.1))

/-- 42_scan.md R173, R175, R179 and R183 items 3 and 4: the remainder is a suffix of the buffer in which no valid frame
starts. It is where a header byte was found with too few bytes left, or, with none left to find, what the TAIL policy
says: nothing at the buffer's end, or bytes without a header byte. -/
def Obligations.RemainderHoldsNoValidFrame : Prop :=
  ∀ B H li lo spec adv tail P r l, H ≠ [] → specLegal spec →
    findValidPackets (listInput B H li lo spec adv tail) = (P, (r, l)) →
    r + l = B.length ∧ (∀ a L, r ≤ a → ¬ FrameAt B H li lo spec a L) ∧
    ((r < B.length ∧ B[r]? = H.head? ∧
        (l < H.length ∨ ((B.drop r).take H.length = H ∧ l < li + 1))) ∨
      (tail = false ∧ r = B.length) ∨
      (tail = true ∧ ∀ k, r ≤ k → k < B.length → B[k]? ≠ H.head?))

/-- 42_scan.md R183 item 6: scanning a remainder alone reports no packet and returns all of it as the remainder. -/
def Obligations.RescanOfARemainderFindsNothing : Prop :=
  ∀ B H li lo spec adv tail P r l, H ≠ [] → specLegal spec →
    findValidPackets (listInput B H li lo spec adv tail) = (P, (r, l)) →
    findValidPackets (listInput (B.drop r) H li lo spec adv tail) = ([], (0, (B.drop r).length))

/-- 42_scan.md R184 item 2 (the loss of 90_conflicts.md C2): with one packet at the buffer's start, cut after its length
byte, and no other header byte, the scan reports nothing and the remainder does not hold the packet's start, under
either policy. -/
def Obligations.TruncatedPacketIsLost : Prop :=
  ∀ B H li lo spec adv tail, H ≠ [] → H.length ≤ B.length → B.take H.length = H → li < B.length →
    B.length < (B.getD li 0).toNat + lo → (∀ k, 0 < k → k < B.length → B[k]? ≠ H.head?) →
    findValidPackets (listInput B H li lo spec adv tail) =
      ([], if tail then (1, B.length - 1) else (B.length, 0))

/-! ### Whole-machine rules -/

/-- The reset state (10_state.md R48) meets the invariant, for every legal build (00_scope.md R4). -/
def Obligations.ResetMeetsTheInvariant : Prop :=
  State.reset.Inv ∧ ∀ p : Params, p.legal = true → (State.resetOf p).Inv

/-- Every step keeps the invariant: the STATUS invariants of 10_state.md R25, the checked configuration of the running
command, the canonical storage within its capacities, and the limits on the results. -/
def Obligations.EveryStepKeepsTheInvariant : Prop :=
  ∀ s t, s.Inv → step s = .next t → t.Inv

/-- Only a host access while `rst = 1` stops the machine (70_reset_and_hazards.md R230), and nothing is refused. -/
def Obligations.OnlyAccessDuringResetStopsTheMachine : Prop :=
  ∀ s, (∀ r, step s ≠ .refused r) ∧
    (∀ f, step s = .fault f ↔ f = .accessDuringReset ∧ ∃ a rest, s.schedule = .hostInReset a :: rest)

/-- 40_command.md R128: a command cannot be cancelled. A step leaves it running with its latched policies, or completes
it with DONE and no error report added, or is a reset. -/
def Obligations.CommandCannotBeCancelled : Prop :=
  ∀ s t i, s.pending = some i → step s = .next t →
    (t.pending = some i ∧ t.latAdv = s.latAdv ∧ t.latTail = s.latTail ∧ ¬ nextEngine s ∧ ¬ nextResets s) ∨
    (nextEngine s ∧ t.pending = none ∧ t.status = { s.status with done := true }) ∨
    (nextResets s ∧ t.pending = none)

/-- 40_command.md R126: what each host write does while the block is busy, and that it changes no input of the running
command. -/
def Obligations.WritesWhileBusyFollowTheTable : Prop :=
  ∀ s x n v rest, s.busy = true → s.schedule = .host (.write x n v) :: rest →
    ∃ t, step s = .next t ∧
      (accessBad x n → t = { s with schedule := rest, resp := { data := 0, error := true } }) ∧
      (¬ accessBad x n → t.resp.error = false ∧
        (x = 0x018 ∨ configOffset x.toNat ∨ inWindow x.toNat →
          t = { s with
            schedule := rest, resp := t.resp, status := { s.status with wbusy := true } }) ∧
        (x = 0x010 →
          t = { s with
            schedule := rest, resp := t.resp
            ctrl := { ie := v.getLsbD 0, adv := v.getLsbD 1, tail := v.getLsbD 2 } }) ∧
        (x = 0x014 →
          t = { s with
            schedule := rest, resp := t.resp
            status :=
              { done := s.status.done && !v.getLsbD 1, err := s.status.err && !v.getLsbD 2
                wbusy := s.status.wbusy && !v.getLsbD 3
                errCode := if v.getLsbD 2 then .noError else s.status.errCode } }) ∧
        (¬ (x = 0x018 ∨ configOffset x.toNat ∨ inWindow x.toNat ∨ x = 0x010 ∨ x = 0x014) →
          t = { s with schedule := rest, resp := t.resp })) ∧
      sameConfig s t ∧ t.mem = s.mem ∧ t.pending = s.pending ∧ t.latAdv = s.latAdv ∧ t.latTail = s.latTail

/-- 40_command.md R124: with only host accesses scheduled, the running command completes after them: the machine takes
as many steps as there are accesses, and one more. -/
def Obligations.RunningCommandCompletes : Prop :=
  ∀ s i, s.pending = some i → (∀ e ∈ s.schedule, ∃ a, e = .host a) →
    ∃ t, Host.Core.run core (s.schedule.length + 1) s = .next t ∧ t.pending = none ∧ t.status.done = true

/-- 40_command.md R129: on buffers whose bytes are defined, two states of one build that agree on the buffer, the
header, the configuration and the latched policies complete a command with the same results and the same new
descriptors, whatever else differs. -/
def Obligations.ResultsDependOnTheInputsAlone : Prop :=
  ∀ s s' i t t' B, s.pending = some i → s'.pending = some i → checkCommand i s = .noError →
    s'.params = s.params → sameConfig s s' → s'.latAdv = s.latAdv → s'.latTail = s.latTail →
    bufferIs s B → bufferIs s' B → (∀ k, k < s.hdrLen.toNat → s'.hdrByte k = s.hdrByte k) →
    exec i s = .next t → exec i s' = .next t' →
    sameResults t t' ∧
    (∀ k, k < t.pktCount.toNat → i = .scan → k < s.params.pktMax → cellsGet t'.desc k = cellsGet t.desc k)

/-- 40_command.md R124, R126, R129 (vectors W1 to W4): on a buffer whose bytes are defined, the results and descriptors
of a running command do not depend on which host accesses come before its completion. -/
def Obligations.ResultsDoNotDependOnWhenTheEngineRuns : Prop :=
  ∀ s i B (as : List Access) t t', s.pending = some i → checkCommand i s = .noError → bufferIs s B →
    Host.Core.run core 1 { s with schedule := [.engine] } = .next t →
    Host.Core.run core (as.length + 1) { s with schedule := as.map .host ++ [.engine] } = .next t' →
    sameResults t t' ∧ t'.desc = t.desc

/-- 60_exceptions.md R202: an error stays reported, with its code, until a write clears ERR, the next command write
while idle (which leaves no error or its own), or a reset. -/
def Obligations.ErrorStaysReported : Prop :=
  ∀ s t, step s = .next t → s.status.err = true →
    (t.status.err = true ∧ t.status.errCode = s.status.errCode) ∨
    (∃ v, nextWrites s 0x014 v ∧ v.getLsbD 2 = true ∧ t.status.err = false ∧ t.status.errCode = .noError) ∨
    (∃ v, nextWrites s 0x018 v ∧ s.pending = none ∧
      (t.status = { done := false, err := false, wbusy := s.status.wbusy, errCode := .noError } ∨
        ∃ c, t.status = { done := true, err := true, wbusy := s.status.wbusy, errCode := c })) ∨
    (nextResets s ∧ t.status.err = false ∧ t.status.errCode = .noError)

/-- The last invariant of 10_state.md R25: from a state in which an error is reported together with DONE, or none is, a
step leads to an error without DONE only where a STATUS write clears DONE. -/
def Obligations.ErrWithoutDoneComesFromAClear : Prop :=
  ∀ s t, step s = .next t → (s.status.err = true → s.status.done = true) →
    t.status.err = true → t.status.done = false → ∃ v, nextWrites s 0x014 v ∧ v.getLsbD 1 = true

/-- 60_exceptions.md R205: WBUSY is set by a write ignored during the busy phase, which changes nothing else of the
block, and stays set until a write clears it or a reset. -/
def Obligations.WbusyRecordsIgnoredWrites : Prop :=
  ∀ s t, step s = .next t →
    (s.status.wbusy = false → t.status.wbusy = true →
      s.busy = true ∧ ∃ x n v rest, s.schedule = .host (.write x n v) :: rest ∧
        t.resp.error = false ∧
        t = { s with schedule := rest, resp := t.resp, status := { s.status with wbusy := true } }) ∧
    (s.status.wbusy = true → t.status.wbusy = false →
      (∃ v, nextWrites s 0x014 v ∧ v.getLsbD 3 = true) ∨ nextResets s)

/-- 60_exceptions.md R208, R209: `irq` is IE and DONE at all times. It rises only with a completion or a CTRL write that
sets IE, and falls only with a write that clears DONE or IE, a command write while idle, or a reset. A CTRL write
that sets IE while DONE is 1 asserts it at once. Whatever IE is, DONE is set only by a completion, and stays set until a
write clears it, the next command write while idle, or a reset. -/
def Obligations.IrqFollowsDoneAndEnable : Prop :=
  (∀ s : State, s.irq = true ↔ s.ctrl.ie = true ∧ s.status.done = true) ∧
  ∀ s t, step s = .next t →
    (s.irq = false → t.irq = true →
      (nextEngine s ∧ s.busy = true) ∨
      (∃ v, nextWrites s 0x018 v ∧ s.busy = false ∧ t.status.err = true) ∨
      (∃ v, nextWrites s 0x010 v ∧ v.getLsbD 0 = true)) ∧
    (s.irq = true → t.irq = false →
      (∃ v, nextWrites s 0x014 v ∧ v.getLsbD 1 = true) ∨
      (∃ v, nextWrites s 0x010 v ∧ v.getLsbD 0 = false) ∨
      (∃ v, nextWrites s 0x018 v ∧ s.busy = false) ∨ nextResets s) ∧
    (s.status.done = true → (∃ v, nextWrites s 0x010 v ∧ v.getLsbD 0 = true) → t.irq = true) ∧
    (s.status.done = false → t.status.done = true →
      (nextEngine s ∧ s.busy = true) ∨
      (∃ v, nextWrites s 0x018 v ∧ s.busy = false ∧ t.status.err = true)) ∧
    (s.status.done = true → t.status.done = false →
      (∃ v, nextWrites s 0x014 v ∧ v.getLsbD 1 = true) ∨
      (∃ v, nextWrites s 0x018 v ∧ s.busy = false) ∨ nextResets s)

/-- 70_reset_and_hazards.md R235, with 40_command.md R126 (a busy block ignores such writes, R24 excepts CTRL) and
20_memory.md R83: but for a reset, configuration registers and window bytes change only by a host write to them of an
idle block, CTRL only by a host write to it, and results and descriptors only by a completion (40_command.md R125). -/
def Obligations.StorageKeepsItsValues : Prop :=
  ∀ s t, step s = .next t → ¬ nextResets s →
    t.params = s.params ∧
    (¬ sameConfig s t → s.busy = false ∧ ∃ x v, nextWrites s x v ∧ configOffset x.toNat) ∧
    (t.mem ≠ s.mem → s.busy = false ∧
      ∃ x n v rest, s.schedule = .host (.write x n v) :: rest ∧ inWindow x.toNat) ∧
    (t.ctrl ≠ s.ctrl → ∃ v, nextWrites s 0x010 v) ∧
    (¬ (sameResults s t ∧ t.desc = s.desc) → s.busy = true ∧ nextEngine s)

/-- The frame of the five commands: in either phase a command changes no configuration, no policy bit of CTRL, no byte
of a window and no WBUSY (a command written while another runs sets WBUSY alone); only SCAN's completion changes
descriptors; acceptance changes no result. That a completion keeps the latched policies is the model's choice (log 12). -/
def Obligations.CommandsChangeOnlyReportAndResults : Prop :=
  ∀ i s, ∃ t, exec i s = .next t ∧
    t.params = s.params ∧ t.ctrl = s.ctrl ∧ sameConfig s t ∧ t.resp = s.resp ∧ t.schedule = s.schedule ∧
    (∀ x, Memory.read t.mem x = Memory.read s.mem x) ∧
    (s.pending = none ∨ s.pending = some i → t.status.wbusy = s.status.wbusy) ∧
    (i ≠ .scan ∨ s.pending ≠ some .scan → ∀ k, cellsGet t.desc k = cellsGet s.desc k) ∧
    (s.pending ≠ some i → sameResults s t) ∧
    (s.pending ≠ none → t.latAdv = s.latAdv ∧ t.latTail = s.latTail) ∧
    (∀ j, s.pending = some j → j ≠ i → t = { s with status := { s.status with wbusy := true } })

/-! ### Reset -/

/-- 10_state.md R48 (70_reset_and_hazards.md R230, R231): a reset puts every state element at its reset value, also
while a command runs; ID and the capacities are constants; HDR bytes are 0; no BUF byte and no descriptor is defined. -/
def Obligations.ResetGivesTheResetValues : Prop :=
  ∀ s rest, s.schedule = .reset :: rest →
    ∃ t, step s = .next t ∧
      t.params = s.params ∧
      t.readReg .id = 0x50465331 ∧ t.readReg .capBuf = BitVec.ofNat 32 s.params.bufMax ∧
      t.readReg .capHdr = BitVec.ofNat 32 s.params.hdrMax ∧ t.readReg .capPkt = BitVec.ofNat 32 s.params.pktMax ∧
      t.readReg .ctrl = 0 ∧ t.readReg .status = 0 ∧ t.readReg .bufLen = 0 ∧ t.readReg .hdrLen = 0 ∧
      t.readReg .lenIndex = 0 ∧ t.readReg .lenOffset = 0 ∧ t.readReg .ckOffset = 0 ∧ t.readReg .argStart = 0 ∧
      t.readReg .argLen = 0 ∧ t.readReg .ckcfg = 0 ∧ t.readReg .pktCount = 0 ∧ t.readReg .remStart = 0 ∧
      t.readReg .remLen = 0 ∧ t.readReg .resFlags = 0 ∧ t.readReg .resLo = 0 ∧ t.readReg .resHi = 0 ∧
      (∀ k, t.hdrByte k = 0) ∧ (∀ k, t.bufDefined k = none) ∧ (∀ k, cellsGet t.desc k = none) ∧
      t.pending = none ∧ t.latAdv = false ∧ t.latTail = false ∧ t.irq = false

/-! ### The host port -/

/-- 20_memory.md R72, R73: an access gets an error response exactly when it is misaligned or too narrow for a word
region; then nothing changes and the data is 0. -/
def Obligations.BadAccessGetsAnErrorAndChangesNothing : Prop :=
  ∀ s rest x n v, (s.schedule = .host (.read x n) :: rest ∨ s.schedule = .host (.write x n v) :: rest) →
    ∃ t, step s = .next t ∧ (t.resp.error = true ↔ accessBad x n) ∧
      (accessBad x n → t = { s with schedule := rest, resp := { data := 0, error := true } })

/-- 20_memory.md R80: a read changes nothing of the block: only the response, and the model's draw number (log 4). -/
def Obligations.ReadsHaveNoSideEffect : Prop :=
  ∀ s rest x n, s.schedule = .host (.read x n) :: rest →
    ∃ t, step s = .next t ∧
      (t = { s with schedule := rest, resp := t.resp } ∨
        t = { s with schedule := rest, resp := t.resp, draws := s.draws + 1 })

/-- 20_memory.md R74, R76, R77: a window read returns, byte by byte and least significant first, the byte the window
holds, and 0 for a byte beyond the capacity; the bits above are 0. What an undefined BUF byte reads is not said. -/
def Obligations.WindowReadReturnsTheStoredBytes : Prop :=
  ∀ s rest x n, s.schedule = .host (.read x n) :: rest → ¬ accessBad x n → inWindow x.toNat →
    ∃ t, step s = .next t ∧ t.resp.error = false ∧ t.resp.data.toNat < 2 ^ (8 * n.bytes) ∧
      ∀ j, j < n.bytes →
        (∀ b, holdsByte s.params (x.toNat + j) → Memory.read s.mem (x.toNat + j) = some b →
          t.resp.data.extractLsb' (8 * j) 8 = b) ∧
        (¬ holdsByte s.params (x.toNat + j) → t.resp.data.extractLsb' (8 * j) 8 = 0)

/-- 20_memory.md R74, R76, R77: a window write to an idle block stores, least significant byte first, every byte the
window holds, ignores the others, and leaves every other byte as it was; nothing but memory and the response changes. -/
def Obligations.WindowWriteStoresTheBytes : Prop :=
  ∀ s rest x n v, Memory.wf s.mem = true → s.busy = false → s.schedule = .host (.write x n v) :: rest →
    ¬ accessBad x n → inWindow x.toNat →
    ∃ t, step s = .next t ∧
      t.resp.error = false ∧ t = { s with schedule := rest, resp := t.resp, mem := t.mem } ∧
      (∀ j, j < n.bytes → holdsByte s.params (x.toNat + j) →
        Memory.read t.mem (x.toNat + j) = some (v.extractLsb' (8 * j) 8)) ∧
      (∀ y, ¬ (x.toNat ≤ y ∧ y < x.toNat + n.bytes ∧ holdsByte s.params y) →
        Memory.read t.mem y = Memory.read s.mem y)

/-- 10_state.md R36 (R24, R30, 40_command.md R126): a configuration register of an idle block reads back the word last
written, CKCFG and CTRL their defined bits, and the write changes that register alone; a busy block keeps its
configuration and sets WBUSY. -/
def Obligations.ConfigurationReadsBackAsWritten : Prop :=
  ∀ s x v rest, s.schedule = .host (.write x .b4 v) :: .host (.read x .b4) :: rest →
    ∃ t u, step s = .next t ∧ step t = .next u ∧
      (s.busy = false → configOffset x.toNat →
        (u.resp.data = if x = 0x030 then v &&& 0x000000F3 else v) ∧ t.resp.error = false ∧
        t = { s with
          schedule := .host (.read x .b4) :: rest, resp := t.resp
          bufLen := if x = 0x020 then v else s.bufLen, hdrLen := if x = 0x024 then v else s.hdrLen
          lenIndex := if x = 0x028 then v else s.lenIndex, lenOffset := if x = 0x02C then v else s.lenOffset
          ckcfg :=
            if x = 0x030 then
              { mode := if v.getLsbD 0 = true then .add else .xor
                endian := if v.getLsbD 1 = true then .little else .big
                size := v.extractLsb' 4 4 }
            else s.ckcfg
          ckOffset := if x = 0x034 then v else s.ckOffset
          argStart := if x = 0x038 then v else s.argStart, argLen := if x = 0x03C then v else s.argLen }) ∧
      (s.busy = true → configOffset x.toNat → sameConfig s u ∧ u.status.wbusy = true) ∧
      (x = 0x010 → u.resp.data = v &&& 0x00000007 ∧ t.resp.error = false ∧
        t = { s with
          schedule := .host (.read x .b4) :: rest, resp := t.resp
          ctrl := { ie := v.getLsbD 0, adv := v.getLsbD 1, tail := v.getLsbD 2 } })

/-- 10_state.md R25, R26: a write to STATUS clears the bits it has ones in, at any time, and changes nothing else; the
word read next shows it: BUSY, DONE, ERR and WBUSY in bits 0 to 3, ERRCODE in bits 11:8, the others 0. -/
def Obligations.StatusBitsAreWriteOneToClear : Prop :=
  ∀ s v rest, s.schedule = .host (.write 0x014 .b4 v) :: .host (.read 0x014 .b4) :: rest →
    ∃ t u, step s = .next t ∧ step t = .next u ∧
      t = { s with schedule := .host (.read 0x014 .b4) :: rest, resp := t.resp, status := t.status } ∧
      t.status.done = (s.status.done && !v.getLsbD 1) ∧ t.status.err = (s.status.err && !v.getLsbD 2) ∧
      t.status.wbusy = (s.status.wbusy && !v.getLsbD 3) ∧
      t.status.errCode = (if v.getLsbD 2 = true then .noError else s.status.errCode) ∧
      u.resp.data.getLsbD 0 = s.busy ∧ u.resp.data.getLsbD 1 = t.status.done ∧
      u.resp.data.getLsbD 2 = t.status.err ∧ u.resp.data.getLsbD 3 = t.status.wbusy ∧
      (u.resp.data.extractLsb' 8 4).toNat = t.status.errCode.toNat ∧
      u.resp.data.extractLsb' 4 4 = 0 ∧ u.resp.data.extractLsb' 12 20 = 0

/-- 10_state.md R22, R23, R27, R42: at all times ID and the capacities read their constants, CMD and the reserved
register offsets read 0; a write to any of them but CMD changes nothing and sets no WBUSY; a write to CMD starts the
command procedure, which `CommandWriteFollowsItsProcedure` spells out. -/
def Obligations.ConstantAndReservedRegisters : Prop :=
  ∀ s rest (x : Addr), x.toNat % 4 = 0 → x.toNat < 0x100 →
    (s.schedule = .host (.read x .b4) :: rest →
      ∃ t, step s = .next t ∧
        (x = 0x000 → t.resp.data = 0x50465331) ∧
        (x = 0x004 → t.resp.data = BitVec.ofNat 32 s.params.bufMax) ∧
        (x = 0x008 → t.resp.data = BitVec.ofNat 32 s.params.hdrMax) ∧
        (x = 0x00C → t.resp.data = BitVec.ofNat 32 s.params.pktMax) ∧
        (x = 0x018 ∨ x = 0x01C ∨ 0x058 ≤ x.toNat → t.resp.data = 0)) ∧
    (∀ v, s.schedule = .host (.write x .b4 v) :: rest → x.toNat ≤ 0x00C ∨ x = 0x01C ∨ 0x058 ≤ x.toNat →
      ∃ t, step s = .next t ∧ t.resp.error = false ∧ t = { s with schedule := rest, resp := t.resp }) ∧
    (∀ v, s.schedule = .host (.write x .b4 v) :: rest → x = 0x018 →
      ∃ r : Response, r.error = false ∧ step s = cmdWrite v { s with schedule := rest, resp := r })

/-- 20_memory.md R78: of an idle block the DESC window reads a written entry's START and LEN, and 0 beyond PKT_MAX; a
write anywhere in it is ignored at all times, without WBUSY. -/
def Obligations.DescWindowReadsDescriptors : Prop :=
  ∀ s rest k (x : Addr),
    (x.toNat = 0x8000 + 8 * k ∨ x.toNat = 0x8000 + 8 * k + 4) → k < 4096 →
    (s.busy = false → s.schedule = .host (.read x .b4) :: rest →
      ∃ t, step s = .next t ∧
        (∀ d, k < s.params.pktMax → cellsGet s.desc k = some d →
          t.resp.data = if x.toNat = 0x8000 + 8 * k then d.start else d.len) ∧
        (s.params.pktMax ≤ k → t.resp.data = 0)) ∧
    (∀ v, s.schedule = .host (.write x .b4 v) :: rest →
      ∃ t, step s = .next t ∧ t.resp.error = false ∧ t = { s with schedule := rest, resp := t.resp })

/-- 20_memory.md R84, 70_reset_and_hazards.md R236, R239: at all times, a busy block's included, the eight configuration
registers and CTRL read their stored values, CKCFG and CTRL 0 in their reserved bits; of an idle block every result
register reads the value the last completion left, with no wait. -/
def Obligations.RegistersReadTheirStoredValues : Prop :=
  ∀ s rest (x : Addr), s.schedule = .host (.read x .b4) :: rest →
    ∃ t, step s = .next t ∧
      (x = 0x020 → t.resp.data = s.bufLen) ∧ (x = 0x024 → t.resp.data = s.hdrLen) ∧
      (x = 0x028 → t.resp.data = s.lenIndex) ∧ (x = 0x02C → t.resp.data = s.lenOffset) ∧
      (x = 0x034 → t.resp.data = s.ckOffset) ∧ (x = 0x038 → t.resp.data = s.argStart) ∧
      (x = 0x03C → t.resp.data = s.argLen) ∧
      (x = 0x030 →
        (t.resp.data.getLsbD 0 = true ↔ s.ckcfg.mode = .add) ∧
        (t.resp.data.getLsbD 1 = true ↔ s.ckcfg.endian = .little) ∧
        t.resp.data.extractLsb' 4 4 = s.ckcfg.size ∧
        t.resp.data.extractLsb' 2 2 = 0 ∧ t.resp.data.extractLsb' 8 24 = 0) ∧
      (x = 0x010 →
        t.resp.data.getLsbD 0 = s.ctrl.ie ∧ t.resp.data.getLsbD 1 = s.ctrl.adv ∧
        t.resp.data.getLsbD 2 = s.ctrl.tail ∧ t.resp.data.extractLsb' 3 29 = 0) ∧
      (s.busy = false →
        (x = 0x040 → t.resp.data = s.pktCount) ∧ (x = 0x044 → t.resp.data = s.remStart) ∧
        (x = 0x048 → t.resp.data = s.remLen) ∧ (x = 0x050 → t.resp.data = s.resLo) ∧
        (x = 0x054 → t.resp.data = s.resHi) ∧
        (x = 0x04C → t.resp.data.getLsbD 0 = s.resFlags.valid ∧ t.resp.data.getLsbD 1 = s.resFlags.rangeFail ∧
          t.resp.data.getLsbD 2 = s.resFlags.ovf ∧ t.resp.data.extractLsb' 3 29 = 0))

/-- 20_memory.md R71: the block takes exactly the 128 KiB from PFS_BASE on, at the offset from it. -/
def Obligations.ApertureIsTheRangeFromTheBase : Prop :=
  ∀ p sysAddr,
    (∀ x, apertureOffset p sysAddr = some x ↔ sysAddr = p.pfsBase + x.toNat) ∧
    (apertureOffset p sysAddr = none ↔ sysAddr < p.pfsBase ∨ p.pfsBase + 0x20000 ≤ sysAddr)

/-- 40_command.md R120, R121: what a 4-byte write of any word to CMD does, of a busy and of an idle block. While busy it
is ignored and sets WBUSY. While idle the lowest code whose condition holds is reported, and where none holds the
command the word names is accepted; WBUSY keeps its value. -/
def Obligations.CommandWriteFollowsItsProcedure : Prop :=
  ∀ s w rest, s.schedule = .host (.write 0x018 .b4 w) :: rest →
    ∃ t, step s = .next t ∧ t.resp.error = false ∧
      (s.pending ≠ none →
        t = { s with schedule := rest, resp := t.resp, status := { s.status with wbusy := true } }) ∧
      (s.pending = none → (∀ k, ¬ violates w s k) →
        ∃ i, decodeWord w = .ok i ∧ t = acceptedAs { s with schedule := rest, resp := t.resp } i) ∧
      (∀ k, s.pending = none → violates w s k → (∀ j, j < k → ¬ violates w s j) →
        ∃ c, ErrCode.toNat c = k ∧ t = refusedWith { s with schedule := rest, resp := t.resp } c)

/-- 20_memory.md R71, 10_state.md R37 to R40: at all times the reserved region reads 0 at every width, and a write to it,
or to a result register, changes nothing and sets no WBUSY. -/
def Obligations.ReservedRegionAndResultsIgnoreWrites : Prop :=
  ∀ s rest (x : Addr) n,
    (0x200 ≤ x.toNat → x.toNat < 0x8000 → ¬ accessBad x n →
      (s.schedule = .host (.read x n) :: rest →
        ∃ t, step s = .next t ∧ t.resp.error = false ∧ t.resp.data = 0) ∧
      (∀ v, s.schedule = .host (.write x n v) :: rest →
        ∃ t, step s = .next t ∧ t.resp.error = false ∧ t = { s with schedule := rest, resp := t.resp })) ∧
    (0x040 ≤ x.toNat → x.toNat ≤ 0x054 → x.toNat % 4 = 0 →
      ∀ v, s.schedule = .host (.write x .b4 v) :: rest →
        ∃ t, step s = .next t ∧ t.resp.error = false ∧ t = { s with schedule := rest, resp := t.resp })
end

