-- ==== Sys2Proof/Laws/State.lean ====
section
/-! SUPPORT. For each update of the state, each field after it. -/

namespace Sys2Proof.Machine

/-! ### State.respond -/

@[simp] theorem State.respond_params (s : State) (v : Word) (e : Bool) : (s.respond v e).params = s.params := rfl
@[simp] theorem State.respond_ctrl (s : State) (v : Word) (e : Bool) : (s.respond v e).ctrl = s.ctrl := rfl
@[simp] theorem State.respond_status (s : State) (v : Word) (e : Bool) : (s.respond v e).status = s.status := rfl
@[simp] theorem State.respond_bufLen (s : State) (v : Word) (e : Bool) : (s.respond v e).bufLen = s.bufLen := rfl
@[simp] theorem State.respond_hdrLen (s : State) (v : Word) (e : Bool) : (s.respond v e).hdrLen = s.hdrLen := rfl
@[simp] theorem State.respond_lenIndex (s : State) (v : Word) (e : Bool) : (s.respond v e).lenIndex = s.lenIndex := rfl
@[simp] theorem State.respond_lenOffset (s : State) (v : Word) (e : Bool) : (s.respond v e).lenOffset = s.lenOffset := rfl
@[simp] theorem State.respond_ckcfg (s : State) (v : Word) (e : Bool) : (s.respond v e).ckcfg = s.ckcfg := rfl
@[simp] theorem State.respond_ckOffset (s : State) (v : Word) (e : Bool) : (s.respond v e).ckOffset = s.ckOffset := rfl
@[simp] theorem State.respond_argStart (s : State) (v : Word) (e : Bool) : (s.respond v e).argStart = s.argStart := rfl
@[simp] theorem State.respond_argLen (s : State) (v : Word) (e : Bool) : (s.respond v e).argLen = s.argLen := rfl
@[simp] theorem State.respond_pktCount (s : State) (v : Word) (e : Bool) : (s.respond v e).pktCount = s.pktCount := rfl
@[simp] theorem State.respond_remStart (s : State) (v : Word) (e : Bool) : (s.respond v e).remStart = s.remStart := rfl
@[simp] theorem State.respond_remLen (s : State) (v : Word) (e : Bool) : (s.respond v e).remLen = s.remLen := rfl
@[simp] theorem State.respond_resFlags (s : State) (v : Word) (e : Bool) : (s.respond v e).resFlags = s.resFlags := rfl
@[simp] theorem State.respond_resLo (s : State) (v : Word) (e : Bool) : (s.respond v e).resLo = s.resLo := rfl
@[simp] theorem State.respond_resHi (s : State) (v : Word) (e : Bool) : (s.respond v e).resHi = s.resHi := rfl
@[simp] theorem State.respond_mem (s : State) (v : Word) (e : Bool) : (s.respond v e).mem = s.mem := rfl
@[simp] theorem State.respond_desc (s : State) (v : Word) (e : Bool) : (s.respond v e).desc = s.desc := rfl
@[simp] theorem State.respond_pending (s : State) (v : Word) (e : Bool) : (s.respond v e).pending = s.pending := rfl
@[simp] theorem State.respond_latAdv (s : State) (v : Word) (e : Bool) : (s.respond v e).latAdv = s.latAdv := rfl
@[simp] theorem State.respond_latTail (s : State) (v : Word) (e : Bool) : (s.respond v e).latTail = s.latTail := rfl
@[simp] theorem State.respond_resp (s : State) (v : Word) (e : Bool) : (s.respond v e).resp = { data := v, error := e } := rfl
@[simp] theorem State.respond_schedule (s : State) (v : Word) (e : Bool) : (s.respond v e).schedule = s.schedule := rfl
@[simp] theorem State.respond_draws (s : State) (v : Word) (e : Bool) : (s.respond v e).draws = s.draws := rfl
@[simp] theorem State.respond_busy (s : State) (v : Word) (e : Bool) : (s.respond v e).busy = s.busy := rfl

/-! ### State.ignoreWrite -/

@[simp] theorem State.ignoreWrite_params (s : State) : (s.ignoreWrite).params = s.params := rfl
@[simp] theorem State.ignoreWrite_ctrl (s : State) : (s.ignoreWrite).ctrl = s.ctrl := rfl
@[simp] theorem State.ignoreWrite_status (s : State) : (s.ignoreWrite).status = { s.status with wbusy := true } := rfl
@[simp] theorem State.ignoreWrite_bufLen (s : State) : (s.ignoreWrite).bufLen = s.bufLen := rfl
@[simp] theorem State.ignoreWrite_hdrLen (s : State) : (s.ignoreWrite).hdrLen = s.hdrLen := rfl
@[simp] theorem State.ignoreWrite_lenIndex (s : State) : (s.ignoreWrite).lenIndex = s.lenIndex := rfl
@[simp] theorem State.ignoreWrite_lenOffset (s : State) : (s.ignoreWrite).lenOffset = s.lenOffset := rfl
@[simp] theorem State.ignoreWrite_ckcfg (s : State) : (s.ignoreWrite).ckcfg = s.ckcfg := rfl
@[simp] theorem State.ignoreWrite_ckOffset (s : State) : (s.ignoreWrite).ckOffset = s.ckOffset := rfl
@[simp] theorem State.ignoreWrite_argStart (s : State) : (s.ignoreWrite).argStart = s.argStart := rfl
@[simp] theorem State.ignoreWrite_argLen (s : State) : (s.ignoreWrite).argLen = s.argLen := rfl
@[simp] theorem State.ignoreWrite_pktCount (s : State) : (s.ignoreWrite).pktCount = s.pktCount := rfl
@[simp] theorem State.ignoreWrite_remStart (s : State) : (s.ignoreWrite).remStart = s.remStart := rfl
@[simp] theorem State.ignoreWrite_remLen (s : State) : (s.ignoreWrite).remLen = s.remLen := rfl
@[simp] theorem State.ignoreWrite_resFlags (s : State) : (s.ignoreWrite).resFlags = s.resFlags := rfl
@[simp] theorem State.ignoreWrite_resLo (s : State) : (s.ignoreWrite).resLo = s.resLo := rfl
@[simp] theorem State.ignoreWrite_resHi (s : State) : (s.ignoreWrite).resHi = s.resHi := rfl
@[simp] theorem State.ignoreWrite_mem (s : State) : (s.ignoreWrite).mem = s.mem := rfl
@[simp] theorem State.ignoreWrite_desc (s : State) : (s.ignoreWrite).desc = s.desc := rfl
@[simp] theorem State.ignoreWrite_pending (s : State) : (s.ignoreWrite).pending = s.pending := rfl
@[simp] theorem State.ignoreWrite_latAdv (s : State) : (s.ignoreWrite).latAdv = s.latAdv := rfl
@[simp] theorem State.ignoreWrite_latTail (s : State) : (s.ignoreWrite).latTail = s.latTail := rfl
@[simp] theorem State.ignoreWrite_resp (s : State) : (s.ignoreWrite).resp = s.resp := rfl
@[simp] theorem State.ignoreWrite_schedule (s : State) : (s.ignoreWrite).schedule = s.schedule := rfl
@[simp] theorem State.ignoreWrite_draws (s : State) : (s.ignoreWrite).draws = s.draws := rfl
@[simp] theorem State.ignoreWrite_busy (s : State) : (s.ignoreWrite).busy = s.busy := rfl

/-! ### State.writeCtrl -/

@[simp] theorem State.writeCtrl_params (s : State) (v : Word) : (s.writeCtrl v).params = s.params := rfl
@[simp] theorem State.writeCtrl_ctrl (s : State) (v : Word) : (s.writeCtrl v).ctrl = Ctrl.ofWord v := rfl
@[simp] theorem State.writeCtrl_status (s : State) (v : Word) : (s.writeCtrl v).status = s.status := rfl
@[simp] theorem State.writeCtrl_bufLen (s : State) (v : Word) : (s.writeCtrl v).bufLen = s.bufLen := rfl
@[simp] theorem State.writeCtrl_hdrLen (s : State) (v : Word) : (s.writeCtrl v).hdrLen = s.hdrLen := rfl
@[simp] theorem State.writeCtrl_lenIndex (s : State) (v : Word) : (s.writeCtrl v).lenIndex = s.lenIndex := rfl
@[simp] theorem State.writeCtrl_lenOffset (s : State) (v : Word) : (s.writeCtrl v).lenOffset = s.lenOffset := rfl
@[simp] theorem State.writeCtrl_ckcfg (s : State) (v : Word) : (s.writeCtrl v).ckcfg = s.ckcfg := rfl
@[simp] theorem State.writeCtrl_ckOffset (s : State) (v : Word) : (s.writeCtrl v).ckOffset = s.ckOffset := rfl
@[simp] theorem State.writeCtrl_argStart (s : State) (v : Word) : (s.writeCtrl v).argStart = s.argStart := rfl
@[simp] theorem State.writeCtrl_argLen (s : State) (v : Word) : (s.writeCtrl v).argLen = s.argLen := rfl
@[simp] theorem State.writeCtrl_pktCount (s : State) (v : Word) : (s.writeCtrl v).pktCount = s.pktCount := rfl
@[simp] theorem State.writeCtrl_remStart (s : State) (v : Word) : (s.writeCtrl v).remStart = s.remStart := rfl
@[simp] theorem State.writeCtrl_remLen (s : State) (v : Word) : (s.writeCtrl v).remLen = s.remLen := rfl
@[simp] theorem State.writeCtrl_resFlags (s : State) (v : Word) : (s.writeCtrl v).resFlags = s.resFlags := rfl
@[simp] theorem State.writeCtrl_resLo (s : State) (v : Word) : (s.writeCtrl v).resLo = s.resLo := rfl
@[simp] theorem State.writeCtrl_resHi (s : State) (v : Word) : (s.writeCtrl v).resHi = s.resHi := rfl
@[simp] theorem State.writeCtrl_mem (s : State) (v : Word) : (s.writeCtrl v).mem = s.mem := rfl
@[simp] theorem State.writeCtrl_desc (s : State) (v : Word) : (s.writeCtrl v).desc = s.desc := rfl
@[simp] theorem State.writeCtrl_pending (s : State) (v : Word) : (s.writeCtrl v).pending = s.pending := rfl
@[simp] theorem State.writeCtrl_latAdv (s : State) (v : Word) : (s.writeCtrl v).latAdv = s.latAdv := rfl
@[simp] theorem State.writeCtrl_latTail (s : State) (v : Word) : (s.writeCtrl v).latTail = s.latTail := rfl
@[simp] theorem State.writeCtrl_resp (s : State) (v : Word) : (s.writeCtrl v).resp = s.resp := rfl
@[simp] theorem State.writeCtrl_schedule (s : State) (v : Word) : (s.writeCtrl v).schedule = s.schedule := rfl
@[simp] theorem State.writeCtrl_draws (s : State) (v : Word) : (s.writeCtrl v).draws = s.draws := rfl
@[simp] theorem State.writeCtrl_busy (s : State) (v : Word) : (s.writeCtrl v).busy = s.busy := rfl

/-! ### State.writeStatus -/

@[simp] theorem State.writeStatus_params (s : State) (v : Word) : (s.writeStatus v).params = s.params := rfl
@[simp] theorem State.writeStatus_ctrl (s : State) (v : Word) : (s.writeStatus v).ctrl = s.ctrl := rfl
@[simp] theorem State.writeStatus_status (s : State) (v : Word) : (s.writeStatus v).status = s.status.clearedBy v := rfl
@[simp] theorem State.writeStatus_bufLen (s : State) (v : Word) : (s.writeStatus v).bufLen = s.bufLen := rfl
@[simp] theorem State.writeStatus_hdrLen (s : State) (v : Word) : (s.writeStatus v).hdrLen = s.hdrLen := rfl
@[simp] theorem State.writeStatus_lenIndex (s : State) (v : Word) : (s.writeStatus v).lenIndex = s.lenIndex := rfl
@[simp] theorem State.writeStatus_lenOffset (s : State) (v : Word) : (s.writeStatus v).lenOffset = s.lenOffset := rfl
@[simp] theorem State.writeStatus_ckcfg (s : State) (v : Word) : (s.writeStatus v).ckcfg = s.ckcfg := rfl
@[simp] theorem State.writeStatus_ckOffset (s : State) (v : Word) : (s.writeStatus v).ckOffset = s.ckOffset := rfl
@[simp] theorem State.writeStatus_argStart (s : State) (v : Word) : (s.writeStatus v).argStart = s.argStart := rfl
@[simp] theorem State.writeStatus_argLen (s : State) (v : Word) : (s.writeStatus v).argLen = s.argLen := rfl
@[simp] theorem State.writeStatus_pktCount (s : State) (v : Word) : (s.writeStatus v).pktCount = s.pktCount := rfl
@[simp] theorem State.writeStatus_remStart (s : State) (v : Word) : (s.writeStatus v).remStart = s.remStart := rfl
@[simp] theorem State.writeStatus_remLen (s : State) (v : Word) : (s.writeStatus v).remLen = s.remLen := rfl
@[simp] theorem State.writeStatus_resFlags (s : State) (v : Word) : (s.writeStatus v).resFlags = s.resFlags := rfl
@[simp] theorem State.writeStatus_resLo (s : State) (v : Word) : (s.writeStatus v).resLo = s.resLo := rfl
@[simp] theorem State.writeStatus_resHi (s : State) (v : Word) : (s.writeStatus v).resHi = s.resHi := rfl
@[simp] theorem State.writeStatus_mem (s : State) (v : Word) : (s.writeStatus v).mem = s.mem := rfl
@[simp] theorem State.writeStatus_desc (s : State) (v : Word) : (s.writeStatus v).desc = s.desc := rfl
@[simp] theorem State.writeStatus_pending (s : State) (v : Word) : (s.writeStatus v).pending = s.pending := rfl
@[simp] theorem State.writeStatus_latAdv (s : State) (v : Word) : (s.writeStatus v).latAdv = s.latAdv := rfl
@[simp] theorem State.writeStatus_latTail (s : State) (v : Word) : (s.writeStatus v).latTail = s.latTail := rfl
@[simp] theorem State.writeStatus_resp (s : State) (v : Word) : (s.writeStatus v).resp = s.resp := rfl
@[simp] theorem State.writeStatus_schedule (s : State) (v : Word) : (s.writeStatus v).schedule = s.schedule := rfl
@[simp] theorem State.writeStatus_draws (s : State) (v : Word) : (s.writeStatus v).draws = s.draws := rfl
@[simp] theorem State.writeStatus_busy (s : State) (v : Word) : (s.writeStatus v).busy = s.busy := rfl

/-! ### State.clearReport -/

@[simp] theorem State.clearReport_params (s : State) : (s.clearReport).params = s.params := rfl
@[simp] theorem State.clearReport_ctrl (s : State) : (s.clearReport).ctrl = s.ctrl := rfl
@[simp] theorem State.clearReport_status (s : State) : (s.clearReport).status = { s.status with done := false, err := false, errCode := .noError } := rfl
@[simp] theorem State.clearReport_bufLen (s : State) : (s.clearReport).bufLen = s.bufLen := rfl
@[simp] theorem State.clearReport_hdrLen (s : State) : (s.clearReport).hdrLen = s.hdrLen := rfl
@[simp] theorem State.clearReport_lenIndex (s : State) : (s.clearReport).lenIndex = s.lenIndex := rfl
@[simp] theorem State.clearReport_lenOffset (s : State) : (s.clearReport).lenOffset = s.lenOffset := rfl
@[simp] theorem State.clearReport_ckcfg (s : State) : (s.clearReport).ckcfg = s.ckcfg := rfl
@[simp] theorem State.clearReport_ckOffset (s : State) : (s.clearReport).ckOffset = s.ckOffset := rfl
@[simp] theorem State.clearReport_argStart (s : State) : (s.clearReport).argStart = s.argStart := rfl
@[simp] theorem State.clearReport_argLen (s : State) : (s.clearReport).argLen = s.argLen := rfl
@[simp] theorem State.clearReport_pktCount (s : State) : (s.clearReport).pktCount = s.pktCount := rfl
@[simp] theorem State.clearReport_remStart (s : State) : (s.clearReport).remStart = s.remStart := rfl
@[simp] theorem State.clearReport_remLen (s : State) : (s.clearReport).remLen = s.remLen := rfl
@[simp] theorem State.clearReport_resFlags (s : State) : (s.clearReport).resFlags = s.resFlags := rfl
@[simp] theorem State.clearReport_resLo (s : State) : (s.clearReport).resLo = s.resLo := rfl
@[simp] theorem State.clearReport_resHi (s : State) : (s.clearReport).resHi = s.resHi := rfl
@[simp] theorem State.clearReport_mem (s : State) : (s.clearReport).mem = s.mem := rfl
@[simp] theorem State.clearReport_desc (s : State) : (s.clearReport).desc = s.desc := rfl
@[simp] theorem State.clearReport_pending (s : State) : (s.clearReport).pending = s.pending := rfl
@[simp] theorem State.clearReport_latAdv (s : State) : (s.clearReport).latAdv = s.latAdv := rfl
@[simp] theorem State.clearReport_latTail (s : State) : (s.clearReport).latTail = s.latTail := rfl
@[simp] theorem State.clearReport_resp (s : State) : (s.clearReport).resp = s.resp := rfl
@[simp] theorem State.clearReport_schedule (s : State) : (s.clearReport).schedule = s.schedule := rfl
@[simp] theorem State.clearReport_draws (s : State) : (s.clearReport).draws = s.draws := rfl
@[simp] theorem State.clearReport_busy (s : State) : (s.clearReport).busy = s.busy := rfl

/-! ### State.raiseError -/

@[simp] theorem State.raiseError_params (s : State) (c : ErrCode) : (s.raiseError c).params = s.params := rfl
@[simp] theorem State.raiseError_ctrl (s : State) (c : ErrCode) : (s.raiseError c).ctrl = s.ctrl := rfl
@[simp] theorem State.raiseError_status (s : State) (c : ErrCode) : (s.raiseError c).status = { s.status with done := true, err := true, errCode := c } := rfl
@[simp] theorem State.raiseError_bufLen (s : State) (c : ErrCode) : (s.raiseError c).bufLen = s.bufLen := rfl
@[simp] theorem State.raiseError_hdrLen (s : State) (c : ErrCode) : (s.raiseError c).hdrLen = s.hdrLen := rfl
@[simp] theorem State.raiseError_lenIndex (s : State) (c : ErrCode) : (s.raiseError c).lenIndex = s.lenIndex := rfl
@[simp] theorem State.raiseError_lenOffset (s : State) (c : ErrCode) : (s.raiseError c).lenOffset = s.lenOffset := rfl
@[simp] theorem State.raiseError_ckcfg (s : State) (c : ErrCode) : (s.raiseError c).ckcfg = s.ckcfg := rfl
@[simp] theorem State.raiseError_ckOffset (s : State) (c : ErrCode) : (s.raiseError c).ckOffset = s.ckOffset := rfl
@[simp] theorem State.raiseError_argStart (s : State) (c : ErrCode) : (s.raiseError c).argStart = s.argStart := rfl
@[simp] theorem State.raiseError_argLen (s : State) (c : ErrCode) : (s.raiseError c).argLen = s.argLen := rfl
@[simp] theorem State.raiseError_pktCount (s : State) (c : ErrCode) : (s.raiseError c).pktCount = s.pktCount := rfl
@[simp] theorem State.raiseError_remStart (s : State) (c : ErrCode) : (s.raiseError c).remStart = s.remStart := rfl
@[simp] theorem State.raiseError_remLen (s : State) (c : ErrCode) : (s.raiseError c).remLen = s.remLen := rfl
@[simp] theorem State.raiseError_resFlags (s : State) (c : ErrCode) : (s.raiseError c).resFlags = s.resFlags := rfl
@[simp] theorem State.raiseError_resLo (s : State) (c : ErrCode) : (s.raiseError c).resLo = s.resLo := rfl
@[simp] theorem State.raiseError_resHi (s : State) (c : ErrCode) : (s.raiseError c).resHi = s.resHi := rfl
@[simp] theorem State.raiseError_mem (s : State) (c : ErrCode) : (s.raiseError c).mem = s.mem := rfl
@[simp] theorem State.raiseError_desc (s : State) (c : ErrCode) : (s.raiseError c).desc = s.desc := rfl
@[simp] theorem State.raiseError_pending (s : State) (c : ErrCode) : (s.raiseError c).pending = s.pending := rfl
@[simp] theorem State.raiseError_latAdv (s : State) (c : ErrCode) : (s.raiseError c).latAdv = s.latAdv := rfl
@[simp] theorem State.raiseError_latTail (s : State) (c : ErrCode) : (s.raiseError c).latTail = s.latTail := rfl
@[simp] theorem State.raiseError_resp (s : State) (c : ErrCode) : (s.raiseError c).resp = s.resp := rfl
@[simp] theorem State.raiseError_schedule (s : State) (c : ErrCode) : (s.raiseError c).schedule = s.schedule := rfl
@[simp] theorem State.raiseError_draws (s : State) (c : ErrCode) : (s.raiseError c).draws = s.draws := rfl
@[simp] theorem State.raiseError_busy (s : State) (c : ErrCode) : (s.raiseError c).busy = s.busy := rfl

/-! ### State.accept -/

@[simp] theorem State.accept_params (s : State) (i : Instr) : (s.accept i).params = s.params := rfl
@[simp] theorem State.accept_ctrl (s : State) (i : Instr) : (s.accept i).ctrl = s.ctrl := rfl
@[simp] theorem State.accept_status (s : State) (i : Instr) : (s.accept i).status = s.status := rfl
@[simp] theorem State.accept_bufLen (s : State) (i : Instr) : (s.accept i).bufLen = s.bufLen := rfl
@[simp] theorem State.accept_hdrLen (s : State) (i : Instr) : (s.accept i).hdrLen = s.hdrLen := rfl
@[simp] theorem State.accept_lenIndex (s : State) (i : Instr) : (s.accept i).lenIndex = s.lenIndex := rfl
@[simp] theorem State.accept_lenOffset (s : State) (i : Instr) : (s.accept i).lenOffset = s.lenOffset := rfl
@[simp] theorem State.accept_ckcfg (s : State) (i : Instr) : (s.accept i).ckcfg = s.ckcfg := rfl
@[simp] theorem State.accept_ckOffset (s : State) (i : Instr) : (s.accept i).ckOffset = s.ckOffset := rfl
@[simp] theorem State.accept_argStart (s : State) (i : Instr) : (s.accept i).argStart = s.argStart := rfl
@[simp] theorem State.accept_argLen (s : State) (i : Instr) : (s.accept i).argLen = s.argLen := rfl
@[simp] theorem State.accept_pktCount (s : State) (i : Instr) : (s.accept i).pktCount = s.pktCount := rfl
@[simp] theorem State.accept_remStart (s : State) (i : Instr) : (s.accept i).remStart = s.remStart := rfl
@[simp] theorem State.accept_remLen (s : State) (i : Instr) : (s.accept i).remLen = s.remLen := rfl
@[simp] theorem State.accept_resFlags (s : State) (i : Instr) : (s.accept i).resFlags = s.resFlags := rfl
@[simp] theorem State.accept_resLo (s : State) (i : Instr) : (s.accept i).resLo = s.resLo := rfl
@[simp] theorem State.accept_resHi (s : State) (i : Instr) : (s.accept i).resHi = s.resHi := rfl
@[simp] theorem State.accept_mem (s : State) (i : Instr) : (s.accept i).mem = s.mem := rfl
@[simp] theorem State.accept_desc (s : State) (i : Instr) : (s.accept i).desc = s.desc := rfl
@[simp] theorem State.accept_pending (s : State) (i : Instr) : (s.accept i).pending = some i := rfl
@[simp] theorem State.accept_latAdv (s : State) (i : Instr) : (s.accept i).latAdv = s.ctrl.adv := rfl
@[simp] theorem State.accept_latTail (s : State) (i : Instr) : (s.accept i).latTail = s.ctrl.tail := rfl
@[simp] theorem State.accept_resp (s : State) (i : Instr) : (s.accept i).resp = s.resp := rfl
@[simp] theorem State.accept_schedule (s : State) (i : Instr) : (s.accept i).schedule = s.schedule := rfl
@[simp] theorem State.accept_draws (s : State) (i : Instr) : (s.accept i).draws = s.draws := rfl

/-! ### State.complete -/

@[simp] theorem State.complete_params (s : State) (r : Results) : (s.complete r).params = s.params := rfl
@[simp] theorem State.complete_ctrl (s : State) (r : Results) : (s.complete r).ctrl = s.ctrl := rfl
@[simp] theorem State.complete_status (s : State) (r : Results) : (s.complete r).status = { s.status with done := true } := rfl
@[simp] theorem State.complete_bufLen (s : State) (r : Results) : (s.complete r).bufLen = s.bufLen := rfl
@[simp] theorem State.complete_hdrLen (s : State) (r : Results) : (s.complete r).hdrLen = s.hdrLen := rfl
@[simp] theorem State.complete_lenIndex (s : State) (r : Results) : (s.complete r).lenIndex = s.lenIndex := rfl
@[simp] theorem State.complete_lenOffset (s : State) (r : Results) : (s.complete r).lenOffset = s.lenOffset := rfl
@[simp] theorem State.complete_ckcfg (s : State) (r : Results) : (s.complete r).ckcfg = s.ckcfg := rfl
@[simp] theorem State.complete_ckOffset (s : State) (r : Results) : (s.complete r).ckOffset = s.ckOffset := rfl
@[simp] theorem State.complete_argStart (s : State) (r : Results) : (s.complete r).argStart = s.argStart := rfl
@[simp] theorem State.complete_argLen (s : State) (r : Results) : (s.complete r).argLen = s.argLen := rfl
@[simp] theorem State.complete_pktCount (s : State) (r : Results) : (s.complete r).pktCount = BitVec.ofNat 32 r.packets.length := rfl
@[simp] theorem State.complete_remStart (s : State) (r : Results) : (s.complete r).remStart = BitVec.ofNat 32 r.rem.1 := rfl
@[simp] theorem State.complete_remLen (s : State) (r : Results) : (s.complete r).remLen = BitVec.ofNat 32 r.rem.2 := rfl
@[simp] theorem State.complete_resFlags (s : State) (r : Results) : (s.complete r).resFlags = r.flags := rfl
@[simp] theorem State.complete_resLo (s : State) (r : Results) : (s.complete r).resLo = r.value.extractLsb' 0 32 := rfl
@[simp] theorem State.complete_resHi (s : State) (r : Results) : (s.complete r).resHi = r.value.extractLsb' 32 32 := rfl
@[simp] theorem State.complete_mem (s : State) (r : Results) : (s.complete r).mem = s.mem := rfl
@[simp] theorem State.complete_desc (s : State) (r : Results) : (s.complete r).desc = storeDescs 0 (r.packets.take s.params.pktMax) s.desc := rfl
@[simp] theorem State.complete_pending (s : State) (r : Results) : (s.complete r).pending = none := rfl
@[simp] theorem State.complete_latAdv (s : State) (r : Results) : (s.complete r).latAdv = s.latAdv := rfl
@[simp] theorem State.complete_latTail (s : State) (r : Results) : (s.complete r).latTail = s.latTail := rfl
@[simp] theorem State.complete_resp (s : State) (r : Results) : (s.complete r).resp = s.resp := rfl
@[simp] theorem State.complete_schedule (s : State) (r : Results) : (s.complete r).schedule = s.schedule := rfl
@[simp] theorem State.complete_draws (s : State) (r : Results) : (s.complete r).draws = s.draws + 1 := rfl

/-! ### State.popEvent -/

@[simp] theorem State.popEvent_params (s : State) : (s.popEvent).params = s.params := rfl
@[simp] theorem State.popEvent_ctrl (s : State) : (s.popEvent).ctrl = s.ctrl := rfl
@[simp] theorem State.popEvent_status (s : State) : (s.popEvent).status = s.status := rfl
@[simp] theorem State.popEvent_bufLen (s : State) : (s.popEvent).bufLen = s.bufLen := rfl
@[simp] theorem State.popEvent_hdrLen (s : State) : (s.popEvent).hdrLen = s.hdrLen := rfl
@[simp] theorem State.popEvent_lenIndex (s : State) : (s.popEvent).lenIndex = s.lenIndex := rfl
@[simp] theorem State.popEvent_lenOffset (s : State) : (s.popEvent).lenOffset = s.lenOffset := rfl
@[simp] theorem State.popEvent_ckcfg (s : State) : (s.popEvent).ckcfg = s.ckcfg := rfl
@[simp] theorem State.popEvent_ckOffset (s : State) : (s.popEvent).ckOffset = s.ckOffset := rfl
@[simp] theorem State.popEvent_argStart (s : State) : (s.popEvent).argStart = s.argStart := rfl
@[simp] theorem State.popEvent_argLen (s : State) : (s.popEvent).argLen = s.argLen := rfl
@[simp] theorem State.popEvent_pktCount (s : State) : (s.popEvent).pktCount = s.pktCount := rfl
@[simp] theorem State.popEvent_remStart (s : State) : (s.popEvent).remStart = s.remStart := rfl
@[simp] theorem State.popEvent_remLen (s : State) : (s.popEvent).remLen = s.remLen := rfl
@[simp] theorem State.popEvent_resFlags (s : State) : (s.popEvent).resFlags = s.resFlags := rfl
@[simp] theorem State.popEvent_resLo (s : State) : (s.popEvent).resLo = s.resLo := rfl
@[simp] theorem State.popEvent_resHi (s : State) : (s.popEvent).resHi = s.resHi := rfl
@[simp] theorem State.popEvent_mem (s : State) : (s.popEvent).mem = s.mem := rfl
@[simp] theorem State.popEvent_desc (s : State) : (s.popEvent).desc = s.desc := rfl
@[simp] theorem State.popEvent_pending (s : State) : (s.popEvent).pending = s.pending := rfl
@[simp] theorem State.popEvent_latAdv (s : State) : (s.popEvent).latAdv = s.latAdv := rfl
@[simp] theorem State.popEvent_latTail (s : State) : (s.popEvent).latTail = s.latTail := rfl
@[simp] theorem State.popEvent_resp (s : State) : (s.popEvent).resp = s.resp := rfl
@[simp] theorem State.popEvent_schedule (s : State) : (s.popEvent).schedule = s.schedule.tail := rfl
@[simp] theorem State.popEvent_draws (s : State) : (s.popEvent).draws = s.draws := rfl
@[simp] theorem State.popEvent_busy (s : State) : (s.popEvent).busy = s.busy := rfl

/-! ### State.applyReset -/

@[simp] theorem State.applyReset_params (s : State) : s.applyReset.params = s.params := rfl
@[simp] theorem State.applyReset_ctrl (s : State) : s.applyReset.ctrl = (State.resetOf s.params).ctrl := rfl
@[simp] theorem State.applyReset_status (s : State) : s.applyReset.status = (State.resetOf s.params).status := rfl
@[simp] theorem State.applyReset_bufLen (s : State) : s.applyReset.bufLen = (State.resetOf s.params).bufLen := rfl
@[simp] theorem State.applyReset_hdrLen (s : State) : s.applyReset.hdrLen = (State.resetOf s.params).hdrLen := rfl
@[simp] theorem State.applyReset_lenIndex (s : State) : s.applyReset.lenIndex = (State.resetOf s.params).lenIndex := rfl
@[simp] theorem State.applyReset_lenOffset (s : State) : s.applyReset.lenOffset = (State.resetOf s.params).lenOffset := rfl
@[simp] theorem State.applyReset_ckcfg (s : State) : s.applyReset.ckcfg = (State.resetOf s.params).ckcfg := rfl
@[simp] theorem State.applyReset_ckOffset (s : State) : s.applyReset.ckOffset = (State.resetOf s.params).ckOffset := rfl
@[simp] theorem State.applyReset_argStart (s : State) : s.applyReset.argStart = (State.resetOf s.params).argStart := rfl
@[simp] theorem State.applyReset_argLen (s : State) : s.applyReset.argLen = (State.resetOf s.params).argLen := rfl
@[simp] theorem State.applyReset_pktCount (s : State) : s.applyReset.pktCount = (State.resetOf s.params).pktCount := rfl
@[simp] theorem State.applyReset_remStart (s : State) : s.applyReset.remStart = (State.resetOf s.params).remStart := rfl
@[simp] theorem State.applyReset_remLen (s : State) : s.applyReset.remLen = (State.resetOf s.params).remLen := rfl
@[simp] theorem State.applyReset_resFlags (s : State) : s.applyReset.resFlags = (State.resetOf s.params).resFlags := rfl
@[simp] theorem State.applyReset_resLo (s : State) : s.applyReset.resLo = (State.resetOf s.params).resLo := rfl
@[simp] theorem State.applyReset_resHi (s : State) : s.applyReset.resHi = (State.resetOf s.params).resHi := rfl
@[simp] theorem State.applyReset_mem (s : State) : s.applyReset.mem = (State.resetOf s.params).mem := rfl
@[simp] theorem State.applyReset_desc (s : State) : s.applyReset.desc = (State.resetOf s.params).desc := rfl
@[simp] theorem State.applyReset_pending (s : State) : s.applyReset.pending = (State.resetOf s.params).pending := rfl
@[simp] theorem State.applyReset_latAdv (s : State) : s.applyReset.latAdv = (State.resetOf s.params).latAdv := rfl
@[simp] theorem State.applyReset_latTail (s : State) : s.applyReset.latTail = (State.resetOf s.params).latTail := rfl
@[simp] theorem State.applyReset_resp (s : State) : s.applyReset.resp = (State.resetOf s.params).resp := rfl
@[simp] theorem State.applyReset_schedule (s : State) : s.applyReset.schedule = s.schedule := rfl
@[simp] theorem State.applyReset_draws (s : State) : s.applyReset.draws = s.draws := rfl

/-! ### State.storeConfig -/

@[simp] theorem State.storeConfig_params (s : State) (r : Reg) (v : Word) : (s.storeConfig r v).params = s.params := by cases r <;> rfl
@[simp] theorem State.storeConfig_ctrl (s : State) (r : Reg) (v : Word) : (s.storeConfig r v).ctrl = s.ctrl := by cases r <;> rfl
@[simp] theorem State.storeConfig_status (s : State) (r : Reg) (v : Word) : (s.storeConfig r v).status = s.status := by cases r <;> rfl
theorem State.storeConfig_bufLen (s : State) (r : Reg) (v : Word) :
    (s.storeConfig r v).bufLen = if r = .bufLen then v else s.bufLen := by cases r <;> rfl
theorem State.storeConfig_hdrLen (s : State) (r : Reg) (v : Word) :
    (s.storeConfig r v).hdrLen = if r = .hdrLen then v else s.hdrLen := by cases r <;> rfl
theorem State.storeConfig_lenIndex (s : State) (r : Reg) (v : Word) :
    (s.storeConfig r v).lenIndex = if r = .lenIndex then v else s.lenIndex := by cases r <;> rfl
theorem State.storeConfig_lenOffset (s : State) (r : Reg) (v : Word) :
    (s.storeConfig r v).lenOffset = if r = .lenOffset then v else s.lenOffset := by cases r <;> rfl
theorem State.storeConfig_ckcfg (s : State) (r : Reg) (v : Word) :
    (s.storeConfig r v).ckcfg = if r = .ckcfg then CkCfg.ofWord v else s.ckcfg := by cases r <;> rfl
theorem State.storeConfig_ckOffset (s : State) (r : Reg) (v : Word) :
    (s.storeConfig r v).ckOffset = if r = .ckOffset then v else s.ckOffset := by cases r <;> rfl
theorem State.storeConfig_argStart (s : State) (r : Reg) (v : Word) :
    (s.storeConfig r v).argStart = if r = .argStart then v else s.argStart := by cases r <;> rfl
theorem State.storeConfig_argLen (s : State) (r : Reg) (v : Word) :
    (s.storeConfig r v).argLen = if r = .argLen then v else s.argLen := by cases r <;> rfl
@[simp] theorem State.storeConfig_pktCount (s : State) (r : Reg) (v : Word) : (s.storeConfig r v).pktCount = s.pktCount := by cases r <;> rfl
@[simp] theorem State.storeConfig_remStart (s : State) (r : Reg) (v : Word) : (s.storeConfig r v).remStart = s.remStart := by cases r <;> rfl
@[simp] theorem State.storeConfig_remLen (s : State) (r : Reg) (v : Word) : (s.storeConfig r v).remLen = s.remLen := by cases r <;> rfl
@[simp] theorem State.storeConfig_resFlags (s : State) (r : Reg) (v : Word) : (s.storeConfig r v).resFlags = s.resFlags := by cases r <;> rfl
@[simp] theorem State.storeConfig_resLo (s : State) (r : Reg) (v : Word) : (s.storeConfig r v).resLo = s.resLo := by cases r <;> rfl
@[simp] theorem State.storeConfig_resHi (s : State) (r : Reg) (v : Word) : (s.storeConfig r v).resHi = s.resHi := by cases r <;> rfl
@[simp] theorem State.storeConfig_mem (s : State) (r : Reg) (v : Word) : (s.storeConfig r v).mem = s.mem := by cases r <;> rfl
@[simp] theorem State.storeConfig_desc (s : State) (r : Reg) (v : Word) : (s.storeConfig r v).desc = s.desc := by cases r <;> rfl
@[simp] theorem State.storeConfig_pending (s : State) (r : Reg) (v : Word) : (s.storeConfig r v).pending = s.pending := by cases r <;> rfl
@[simp] theorem State.storeConfig_latAdv (s : State) (r : Reg) (v : Word) : (s.storeConfig r v).latAdv = s.latAdv := by cases r <;> rfl
@[simp] theorem State.storeConfig_latTail (s : State) (r : Reg) (v : Word) : (s.storeConfig r v).latTail = s.latTail := by cases r <;> rfl
@[simp] theorem State.storeConfig_resp (s : State) (r : Reg) (v : Word) : (s.storeConfig r v).resp = s.resp := by cases r <;> rfl
@[simp] theorem State.storeConfig_schedule (s : State) (r : Reg) (v : Word) : (s.storeConfig r v).schedule = s.schedule := by cases r <;> rfl
@[simp] theorem State.storeConfig_draws (s : State) (r : Reg) (v : Word) : (s.storeConfig r v).draws = s.draws := by cases r <;> rfl
@[simp] theorem State.storeConfig_busy (s : State) (r : Reg) (v : Word) : (s.storeConfig r v).busy = s.busy := by cases r <;> rfl

/-! ### State.writeByte and State.writeBytes change the memory alone -/

@[simp] theorem State.writeByte_params (s : State) (x : Nat) (b : Byte) : (s.writeByte x b).params = s.params := by
  unfold State.writeByte; split <;> rfl
@[simp] theorem State.writeByte_ctrl (s : State) (x : Nat) (b : Byte) : (s.writeByte x b).ctrl = s.ctrl := by
  unfold State.writeByte; split <;> rfl
@[simp] theorem State.writeByte_status (s : State) (x : Nat) (b : Byte) : (s.writeByte x b).status = s.status := by
  unfold State.writeByte; split <;> rfl
@[simp] theorem State.writeByte_bufLen (s : State) (x : Nat) (b : Byte) : (s.writeByte x b).bufLen = s.bufLen := by
  unfold State.writeByte; split <;> rfl
@[simp] theorem State.writeByte_hdrLen (s : State) (x : Nat) (b : Byte) : (s.writeByte x b).hdrLen = s.hdrLen := by
  unfold State.writeByte; split <;> rfl
@[simp] theorem State.writeByte_lenIndex (s : State) (x : Nat) (b : Byte) : (s.writeByte x b).lenIndex = s.lenIndex := by
  unfold State.writeByte; split <;> rfl
@[simp] theorem State.writeByte_lenOffset (s : State) (x : Nat) (b : Byte) : (s.writeByte x b).lenOffset = s.lenOffset := by
  unfold State.writeByte; split <;> rfl
@[simp] theorem State.writeByte_ckcfg (s : State) (x : Nat) (b : Byte) : (s.writeByte x b).ckcfg = s.ckcfg := by
  unfold State.writeByte; split <;> rfl
@[simp] theorem State.writeByte_ckOffset (s : State) (x : Nat) (b : Byte) : (s.writeByte x b).ckOffset = s.ckOffset := by
  unfold State.writeByte; split <;> rfl
@[simp] theorem State.writeByte_argStart (s : State) (x : Nat) (b : Byte) : (s.writeByte x b).argStart = s.argStart := by
  unfold State.writeByte; split <;> rfl
@[simp] theorem State.writeByte_argLen (s : State) (x : Nat) (b : Byte) : (s.writeByte x b).argLen = s.argLen := by
  unfold State.writeByte; split <;> rfl
@[simp] theorem State.writeByte_pktCount (s : State) (x : Nat) (b : Byte) : (s.writeByte x b).pktCount = s.pktCount := by
  unfold State.writeByte; split <;> rfl
@[simp] theorem State.writeByte_remStart (s : State) (x : Nat) (b : Byte) : (s.writeByte x b).remStart = s.remStart := by
  unfold State.writeByte; split <;> rfl
@[simp] theorem State.writeByte_remLen (s : State) (x : Nat) (b : Byte) : (s.writeByte x b).remLen = s.remLen := by
  unfold State.writeByte; split <;> rfl
@[simp] theorem State.writeByte_resFlags (s : State) (x : Nat) (b : Byte) : (s.writeByte x b).resFlags = s.resFlags := by
  unfold State.writeByte; split <;> rfl
@[simp] theorem State.writeByte_resLo (s : State) (x : Nat) (b : Byte) : (s.writeByte x b).resLo = s.resLo := by
  unfold State.writeByte; split <;> rfl
@[simp] theorem State.writeByte_resHi (s : State) (x : Nat) (b : Byte) : (s.writeByte x b).resHi = s.resHi := by
  unfold State.writeByte; split <;> rfl
@[simp] theorem State.writeByte_desc (s : State) (x : Nat) (b : Byte) : (s.writeByte x b).desc = s.desc := by
  unfold State.writeByte; split <;> rfl
@[simp] theorem State.writeByte_pending (s : State) (x : Nat) (b : Byte) : (s.writeByte x b).pending = s.pending := by
  unfold State.writeByte; split <;> rfl
@[simp] theorem State.writeByte_latAdv (s : State) (x : Nat) (b : Byte) : (s.writeByte x b).latAdv = s.latAdv := by
  unfold State.writeByte; split <;> rfl
@[simp] theorem State.writeByte_latTail (s : State) (x : Nat) (b : Byte) : (s.writeByte x b).latTail = s.latTail := by
  unfold State.writeByte; split <;> rfl
@[simp] theorem State.writeByte_resp (s : State) (x : Nat) (b : Byte) : (s.writeByte x b).resp = s.resp := by
  unfold State.writeByte; split <;> rfl
@[simp] theorem State.writeByte_schedule (s : State) (x : Nat) (b : Byte) : (s.writeByte x b).schedule = s.schedule := by
  unfold State.writeByte; split <;> rfl
@[simp] theorem State.writeByte_draws (s : State) (x : Nat) (b : Byte) : (s.writeByte x b).draws = s.draws := by
  unfold State.writeByte; split <;> rfl

@[simp] theorem State.writeBytes_params (s : State) (x : Nat) (bs : List Byte) : (s.writeBytes x bs).params = s.params := by
  induction bs generalizing s x with
  | nil => rfl
  | cons b bs ih => simp [State.writeBytes, ih]
@[simp] theorem State.writeBytes_ctrl (s : State) (x : Nat) (bs : List Byte) : (s.writeBytes x bs).ctrl = s.ctrl := by
  induction bs generalizing s x with
  | nil => rfl
  | cons b bs ih => simp [State.writeBytes, ih]
@[simp] theorem State.writeBytes_status (s : State) (x : Nat) (bs : List Byte) : (s.writeBytes x bs).status = s.status := by
  induction bs generalizing s x with
  | nil => rfl
  | cons b bs ih => simp [State.writeBytes, ih]
@[simp] theorem State.writeBytes_bufLen (s : State) (x : Nat) (bs : List Byte) : (s.writeBytes x bs).bufLen = s.bufLen := by
  induction bs generalizing s x with
  | nil => rfl
  | cons b bs ih => simp [State.writeBytes, ih]
@[simp] theorem State.writeBytes_hdrLen (s : State) (x : Nat) (bs : List Byte) : (s.writeBytes x bs).hdrLen = s.hdrLen := by
  induction bs generalizing s x with
  | nil => rfl
  | cons b bs ih => simp [State.writeBytes, ih]
@[simp] theorem State.writeBytes_lenIndex (s : State) (x : Nat) (bs : List Byte) : (s.writeBytes x bs).lenIndex = s.lenIndex := by
  induction bs generalizing s x with
  | nil => rfl
  | cons b bs ih => simp [State.writeBytes, ih]
@[simp] theorem State.writeBytes_lenOffset (s : State) (x : Nat) (bs : List Byte) : (s.writeBytes x bs).lenOffset = s.lenOffset := by
  induction bs generalizing s x with
  | nil => rfl
  | cons b bs ih => simp [State.writeBytes, ih]
@[simp] theorem State.writeBytes_ckcfg (s : State) (x : Nat) (bs : List Byte) : (s.writeBytes x bs).ckcfg = s.ckcfg := by
  induction bs generalizing s x with
  | nil => rfl
  | cons b bs ih => simp [State.writeBytes, ih]
@[simp] theorem State.writeBytes_ckOffset (s : State) (x : Nat) (bs : List Byte) : (s.writeBytes x bs).ckOffset = s.ckOffset := by
  induction bs generalizing s x with
  | nil => rfl
  | cons b bs ih => simp [State.writeBytes, ih]
@[simp] theorem State.writeBytes_argStart (s : State) (x : Nat) (bs : List Byte) : (s.writeBytes x bs).argStart = s.argStart := by
  induction bs generalizing s x with
  | nil => rfl
  | cons b bs ih => simp [State.writeBytes, ih]
@[simp] theorem State.writeBytes_argLen (s : State) (x : Nat) (bs : List Byte) : (s.writeBytes x bs).argLen = s.argLen := by
  induction bs generalizing s x with
  | nil => rfl
  | cons b bs ih => simp [State.writeBytes, ih]
@[simp] theorem State.writeBytes_pktCount (s : State) (x : Nat) (bs : List Byte) : (s.writeBytes x bs).pktCount = s.pktCount := by
  induction bs generalizing s x with
  | nil => rfl
  | cons b bs ih => simp [State.writeBytes, ih]
@[simp] theorem State.writeBytes_remStart (s : State) (x : Nat) (bs : List Byte) : (s.writeBytes x bs).remStart = s.remStart := by
  induction bs generalizing s x with
  | nil => rfl
  | cons b bs ih => simp [State.writeBytes, ih]
@[simp] theorem State.writeBytes_remLen (s : State) (x : Nat) (bs : List Byte) : (s.writeBytes x bs).remLen = s.remLen := by
  induction bs generalizing s x with
  | nil => rfl
  | cons b bs ih => simp [State.writeBytes, ih]
@[simp] theorem State.writeBytes_resFlags (s : State) (x : Nat) (bs : List Byte) : (s.writeBytes x bs).resFlags = s.resFlags := by
  induction bs generalizing s x with
  | nil => rfl
  | cons b bs ih => simp [State.writeBytes, ih]
@[simp] theorem State.writeBytes_resLo (s : State) (x : Nat) (bs : List Byte) : (s.writeBytes x bs).resLo = s.resLo := by
  induction bs generalizing s x with
  | nil => rfl
  | cons b bs ih => simp [State.writeBytes, ih]
@[simp] theorem State.writeBytes_resHi (s : State) (x : Nat) (bs : List Byte) : (s.writeBytes x bs).resHi = s.resHi := by
  induction bs generalizing s x with
  | nil => rfl
  | cons b bs ih => simp [State.writeBytes, ih]
@[simp] theorem State.writeBytes_desc (s : State) (x : Nat) (bs : List Byte) : (s.writeBytes x bs).desc = s.desc := by
  induction bs generalizing s x with
  | nil => rfl
  | cons b bs ih => simp [State.writeBytes, ih]
@[simp] theorem State.writeBytes_pending (s : State) (x : Nat) (bs : List Byte) : (s.writeBytes x bs).pending = s.pending := by
  induction bs generalizing s x with
  | nil => rfl
  | cons b bs ih => simp [State.writeBytes, ih]
@[simp] theorem State.writeBytes_latAdv (s : State) (x : Nat) (bs : List Byte) : (s.writeBytes x bs).latAdv = s.latAdv := by
  induction bs generalizing s x with
  | nil => rfl
  | cons b bs ih => simp [State.writeBytes, ih]
@[simp] theorem State.writeBytes_latTail (s : State) (x : Nat) (bs : List Byte) : (s.writeBytes x bs).latTail = s.latTail := by
  induction bs generalizing s x with
  | nil => rfl
  | cons b bs ih => simp [State.writeBytes, ih]
@[simp] theorem State.writeBytes_resp (s : State) (x : Nat) (bs : List Byte) : (s.writeBytes x bs).resp = s.resp := by
  induction bs generalizing s x with
  | nil => rfl
  | cons b bs ih => simp [State.writeBytes, ih]
@[simp] theorem State.writeBytes_schedule (s : State) (x : Nat) (bs : List Byte) : (s.writeBytes x bs).schedule = s.schedule := by
  induction bs generalizing s x with
  | nil => rfl
  | cons b bs ih => simp [State.writeBytes, ih]
@[simp] theorem State.writeBytes_draws (s : State) (x : Nat) (bs : List Byte) : (s.writeBytes x bs).draws = s.draws := by
  induction bs generalizing s x with
  | nil => rfl
  | cons b bs ih => simp [State.writeBytes, ih]

end Sys2Proof.Machine
end

