-- ==== Sys2Proof/Laws/Cells.lean ====
section
/-! SUPPORT. Lists of cells with rising keys, and the memory built on them: what a read finds after a write, and that
every operation keeps the canonical form. -/

namespace Sys2Proof.Machine

variable {α : Type}

/-! ### Reading after inserting or erasing -/

theorem cellsGet_cellsInsert (t : List (Nat × α)) (k j : Nat) (v : α) :
    cellsGet (cellsInsert t k v) j = if j = k then some v else cellsGet t j := by
  induction t with
  | nil => simp only [cellsInsert, cellsGet, eq_comm]
  | cons c t ih =>
    simp only [cellsInsert]
    by_cases hj : j = k
    · subst hj
      rw [if_pos rfl] at ih ⊢
      split_ifs with h1 h2
      · simp [cellsGet]
      · simp [cellsGet]
      · simp [cellsGet, Ne.symm h2, ih]
    · rw [if_neg hj] at ih ⊢
      split_ifs with h1 h2
      · simp [cellsGet, Ne.symm hj]
      · subst h2
        simp [cellsGet, Ne.symm hj]
      · simp [cellsGet, ih]

theorem cellsGet_eq_none_of_lt {t : List (Nat × α)} {lo k : Nat} (h : cellsRiseFrom lo t = true) (hk : k < lo) :
    cellsGet t k = none := by
  induction t generalizing lo with
  | nil => rfl
  | cons c t ih =>
    simp only [cellsRiseFrom, Bool.and_eq_true, decide_eq_true_eq] at h
    have : c.1 ≠ k := by omega
    simp [cellsGet, this, ih h.2 (by omega)]

theorem cellsGet_cellsErase {t : List (Nat × α)} {lo : Nat} (h : cellsRiseFrom lo t = true) (k j : Nat) :
    cellsGet (cellsErase t k) j = if j = k then none else cellsGet t j := by
  induction t generalizing lo with
  | nil => simp [cellsErase, cellsGet]
  | cons c t ih =>
    simp only [cellsRiseFrom, Bool.and_eq_true, decide_eq_true_eq] at h
    have hn := cellsGet_eq_none_of_lt h.2 (Nat.lt_succ_self c.1)
    simp only [cellsErase]
    split_ifs with h1 h2 h3
    · rw [h2, ← h1, hn]
    · simp [cellsGet, show c.1 ≠ j by omega]
    · subst h3
      simp [cellsGet, ih h.2, h1]
    · simp [cellsGet, ih h.2, h3]

/-! ### The keys stay rising -/

theorem cellsRiseFrom_mono {t : List (Nat × α)} {lo lo' : Nat} (h : cellsRiseFrom lo t = true) (hl : lo' ≤ lo) :
    cellsRiseFrom lo' t = true := by
  cases t with
  | nil => rfl
  | cons c t =>
    simp only [cellsRiseFrom, Bool.and_eq_true, decide_eq_true_eq] at h ⊢
    exact ⟨by omega, h.2⟩

theorem cellsRiseFrom_cellsInsert {t : List (Nat × α)} {lo k : Nat} (h : cellsRiseFrom lo t = true) (hk : lo ≤ k)
    (v : α) : cellsRiseFrom lo (cellsInsert t k v) = true := by
  induction t generalizing lo with
  | nil => simp [cellsInsert, cellsRiseFrom, hk]
  | cons c t ih =>
    simp only [cellsRiseFrom, Bool.and_eq_true, decide_eq_true_eq] at h
    simp only [cellsInsert]
    split_ifs with h1 h2
    · simp only [cellsRiseFrom, Bool.and_eq_true, decide_eq_true_eq]
      exact ⟨hk, by omega, h.2⟩
    · simp only [cellsRiseFrom, Bool.and_eq_true, decide_eq_true_eq]
      exact ⟨hk, h2 ▸ h.2⟩
    · simp only [cellsRiseFrom, Bool.and_eq_true, decide_eq_true_eq]
      exact ⟨h.1, ih h.2 (by omega)⟩

theorem cellsRiseFrom_cellsErase {t : List (Nat × α)} {lo : Nat} (h : cellsRiseFrom lo t = true) (k : Nat) :
    cellsRiseFrom lo (cellsErase t k) = true := by
  induction t generalizing lo with
  | nil => rfl
  | cons c t ih =>
    simp only [cellsRiseFrom, Bool.and_eq_true, decide_eq_true_eq] at h
    simp only [cellsErase]
    split_ifs
    · exact cellsRiseFrom_mono h.2 (by omega)
    · simp only [cellsRiseFrom, Bool.and_eq_true, decide_eq_true_eq]
      exact ⟨h.1, ih h.2⟩

/-! ### The cells listed -/

theorem mem_cellsInsert {t : List (Nat × α)} {k : Nat} {v : α} {c : Nat × α} (h : c ∈ cellsInsert t k v) :
    c = (k, v) ∨ c ∈ t := by
  induction t with
  | nil => simpa [cellsInsert] using h
  | cons d t ih =>
    simp only [cellsInsert] at h
    split_ifs at h
    · simpa using h
    · rcases List.mem_cons.1 h with h | h
      · exact .inl h
      · exact .inr (List.mem_cons_of_mem _ h)
    · rcases List.mem_cons.1 h with h | h
      · exact .inr (h ▸ List.mem_cons_self ..)
      · exact (ih h).imp id (List.mem_cons_of_mem _)

theorem mem_of_mem_cellsErase {t : List (Nat × α)} {k : Nat} {c : Nat × α} (h : c ∈ cellsErase t k) : c ∈ t := by
  induction t with
  | nil => exact h
  | cons d t ih =>
    simp only [cellsErase] at h
    split_ifs at h
    · exact List.mem_cons_of_mem _ h
    · rcases List.mem_cons.1 h with h | h
      · exact h ▸ List.mem_cons_self ..
      · exact List.mem_cons_of_mem _ (ih h)

theorem mem_of_cellsGet {t : List (Nat × α)} {k : Nat} {v : α} (h : cellsGet t k = some v) : (k, v) ∈ t := by
  induction t with
  | nil => simp [cellsGet] at h
  | cons c t ih =>
    simp only [cellsGet] at h
    split_ifs at h with h1
    · cases h; subst h1; exact List.mem_cons_self ..
    · exact List.mem_cons_of_mem _ (ih h)

theorem cellsGet_of_mem {t : List (Nat × α)} {lo k : Nat} {v : α} (hr : cellsRiseFrom lo t = true) (h : (k, v) ∈ t) :
    cellsGet t k = some v := by
  induction t generalizing lo with
  | nil => simp at h
  | cons c t ih =>
    simp only [cellsRiseFrom, Bool.and_eq_true, decide_eq_true_eq] at hr
    rcases List.mem_cons.1 h with h | h
    · subst h; simp [cellsGet]
    · have hg := ih hr.2 h
      have : c.1 ≠ k := by
        intro e
        rw [cellsGet_eq_none_of_lt hr.2 (by omega)] at hg
        simp at hg
      simp [cellsGet, this, hg]

/-- Rising cells are determined by what is found at each key: equal contents are equal data. -/
theorem cells_ext {t u : List (Nat × α)} {lo : Nat} (ht : cellsRiseFrom lo t = true) (hu : cellsRiseFrom lo u = true)
    (h : ∀ k, cellsGet t k = cellsGet u k) : t = u := by
  induction t generalizing lo u with
  | nil =>
    cases u with
    | nil => rfl
    | cons d u => simpa [cellsGet] using h d.1
  | cons c t ih =>
    cases u with
    | nil => simpa [cellsGet] using h c.1
    | cons d u =>
      have hc := h c.1
      have hd := h d.1
      simp only [cellsRiseFrom, Bool.and_eq_true, decide_eq_true_eq] at ht hu
      have hcd : c.1 = d.1 := by
        rcases Nat.lt_trichotomy c.1 d.1 with hl | hl | hl
        · simp [cellsGet, show d.1 ≠ c.1 by omega,
            cellsGet_eq_none_of_lt hu.2 (show c.1 < d.1 + 1 by omega)] at hc
        · exact hl
        · simp [cellsGet, show c.1 ≠ d.1 by omega,
            cellsGet_eq_none_of_lt ht.2 (show d.1 < c.1 + 1 by omega)] at hd
      have hv : c.2 = d.2 := by simpa [cellsGet, hcd] using hc
      have hcd' : c = d := Prod.ext hcd hv
      subst hcd'
      congr 1
      refine ih ht.2 hu.2 fun k => ?_
      by_cases hk : c.1 = k
      · rw [cellsGet_eq_none_of_lt ht.2 (by omega), cellsGet_eq_none_of_lt hu.2 (by omega)]
      · simpa [cellsGet, hk] using h k

/-! ### The memory -/

theorem Memory.rise_of_wf {m : Memory} (h : Memory.wf m = true) : cellsRiseFrom 0 m = true := by
  simp only [Memory.wf, Bool.and_eq_true] at h
  exact h.1

/-- A read after a write gives the byte written there and the old byte elsewhere. -/
theorem Memory.read_write {m : Memory} (h : Memory.wf m = true) (x y : Nat) (b : Byte) :
    Memory.read (Memory.write m x b) y = if y = x then some b else Memory.read m y := by
  unfold Memory.write Memory.read
  split_ifs with h1 h2 h2
  · simp [cellsGet_cellsErase (Memory.rise_of_wf h), h2, h1]
  · simp [cellsGet_cellsErase (Memory.rise_of_wf h), h2]
  · simp [cellsGet_cellsInsert, h2]
  · simp [cellsGet_cellsInsert, h2]

theorem Memory.wf_write {m : Memory} (h : Memory.wf m = true) (x : Nat) (b : Byte) :
    Memory.wf (Memory.write m x b) = true := by
  simp only [Memory.wf, Bool.and_eq_true, List.all_eq_true] at h ⊢
  unfold Memory.write
  split_ifs with h1
  · exact ⟨cellsRiseFrom_cellsErase h.1 x, fun c hc => h.2 c (mem_of_mem_cellsErase hc)⟩
  · refine ⟨cellsRiseFrom_cellsInsert h.1 (Nat.zero_le x) b, fun c hc => ?_⟩
    rcases mem_cellsInsert hc with rfl | hc
    · simpa using h1
    · exact h.2 c hc

theorem Memory.within_write {p : Params} {m : Memory} (h : Memory.within p m = true) {x : Nat}
    (hx : windowHolds p x = true) (b : Byte) : Memory.within p (Memory.write m x b) = true := by
  simp only [Memory.within, List.all_eq_true] at h ⊢
  unfold Memory.write
  split_ifs with h1
  · exact fun c hc => h c (mem_of_mem_cellsErase hc)
  · intro c hc
    rcases mem_cellsInsert hc with rfl | hc
    · simp only [windowHolds, regionOf] at hx
      simp only [Bool.or_eq_true, Bool.and_eq_true, decide_eq_true_eq]
      split at hx <;> simp only [decide_eq_true_eq, reduceCtorEq] at hx <;> rename_i hr <;>
        split_ifs at hr <;> simp only [hdrBase, bufBase] at hx ⊢ <;> omega
    · exact h c hc

/-- Canonical memories that read alike are equal data. -/
theorem Memory.ext_of_read {m n : Memory} (hm : Memory.wf m = true) (hn : Memory.wf n = true)
    (h : ∀ x, Memory.read m x = Memory.read n x) : m = n := by
  refine cells_ext (Memory.rise_of_wf hm) (Memory.rise_of_wf hn) fun x => ?_
  have hx := h x
  simp only [Memory.wf, Bool.and_eq_true, List.all_eq_true, bne_iff_ne, ne_eq] at hm hn
  unfold Memory.read at hx
  cases em : cellsGet m x <;> cases en : cellsGet n x <;> rw [em, en] at hx
  · exact absurd hx (by simpa using hn.2 _ (mem_of_cellsGet en))
  · exact absurd hx.symm (by simpa using hm.2 _ (mem_of_cellsGet em))
  · simpa using hx

theorem Memory.wf_nil : Memory.wf [] = true := rfl

/-! ### Window writes keep the storage consistent -/

theorem State.writeBytes_mem_wf {s : State} (h : Memory.wf s.mem = true) (x : Nat) (bs : List Byte) :
    Memory.wf (s.writeBytes x bs).mem = true := by
  induction bs generalizing s x with
  | nil => exact h
  | cons b bs ih =>
    refine ih ?_ (x + 1)
    unfold State.writeByte
    split
    · exact Memory.wf_write h x b
    · exact h

theorem State.writeBytes_mem_within {s : State} (h : Memory.within s.params s.mem = true) (x : Nat) (bs : List Byte) :
    Memory.within s.params (s.writeBytes x bs).mem = true := by
  induction bs generalizing s x with
  | nil => exact h
  | cons b bs ih =>
    have hb : Memory.within (s.writeByte x b).params (s.writeByte x b).mem = true := by
      unfold State.writeByte
      split
      · exact Memory.within_write h ‹_› b
      · exact h
    rw [State.writeBytes]
    simpa using ih hb (x + 1)

/-- What a window write leaves at every offset: the byte written where the window holds one, else the old byte. -/
theorem State.read_writeBytes {s : State} (h : Memory.wf s.mem = true) (x : Nat) (bs : List Byte) (y : Nat) :
    Memory.read (s.writeBytes x bs).mem y =
      if x ≤ y ∧ y < x + bs.length ∧ windowHolds s.params y = true then bs[y - x]? else Memory.read s.mem y := by
  induction bs generalizing s x with
  | nil => simp [State.writeBytes]; omega
  | cons b bs ih =>
    have hw : Memory.wf (s.writeByte x b).mem = true := by
      unfold State.writeByte
      split
      · exact Memory.wf_write h x b
      · exact h
    have hr : Memory.read (s.writeByte x b).mem y =
        if y = x ∧ windowHolds s.params y = true then some b else Memory.read s.mem y := by
      unfold State.writeByte
      by_cases hyx : y = x
      · subst hyx
        split <;> simp_all [Memory.read_write h]
      · split <;> simp [hyx, Memory.read_write h]
    rw [State.writeBytes, ih hw, hr]
    simp only [State.writeByte_params, List.length_cons]
    by_cases hyx : y = x
    · subst hyx
      simp
    · by_cases hlt : x + 1 ≤ y
      · have hy : y - x = (y - (x + 1)) + 1 := by omega
        simp only [hy, List.getElem?_cons_succ, hyx, false_and, if_false]
        by_cases hin : y < x + 1 + bs.length
        · simp [hin, hlt, show x ≤ y by omega, show y < x + (bs.length + 1) by omega]
        · simp [hin, show ¬ y < x + (bs.length + 1) by omega]
      · simp [hyx, hlt, show ¬ x ≤ y by omega]

end Sys2Proof.Machine
end

