-- ==== Sys2Proof/Laws/Checksum.lean ====
section
/-! SUPPORT. The small laws of the checksum functions. -/

namespace Sys2Proof.Machine

/-! ### Exclusive-or -/

theorem xorChecksum_nil : xorChecksum [] = 0 := rfl

theorem foldl_xor_init (b : List Byte) (a : Byte) : b.foldl (fun acc x => acc ^^^ x) a = a ^^^ xorChecksum b := by
  induction b generalizing a with
  | nil => simp [xorChecksum]
  | cons x b ih =>
    simp only [xorChecksum, List.foldl_cons] at ih ⊢
    rw [ih, ih (0 ^^^ x)]
    simp [BitVec.xor_assoc]

theorem xorChecksum_cons (x : Byte) (b : List Byte) : xorChecksum (x :: b) = x ^^^ xorChecksum b := by
  rw [xorChecksum, List.foldl_cons, foldl_xor_init]
  simp

theorem xorChecksum_append (a b : List Byte) : xorChecksum (a ++ b) = xorChecksum a ^^^ xorChecksum b := by
  induction a with
  | nil => simp [xorChecksum_nil]
  | cons x a ih => rw [List.cons_append, xorChecksum_cons, xorChecksum_cons, ih, BitVec.xor_assoc]

theorem xorChecksum_singleton (x : Byte) : xorChecksum [x] = x := by
  simp [xorChecksum_cons, xorChecksum_nil]

/-! ### Sums -/

theorem byteSum_append (a b : List Byte) : byteSum (a ++ b) = byteSum a + byteSum b := by
  induction a with
  | nil => simp [byteSum]
  | cons x a ih => rw [List.cons_append, byteSum, byteSum, ih, Nat.add_assoc]

/-- The sum of a buffer's bytes is small (41_checksum.md R148). -/
theorem byteSum_le (b : List Byte) : byteSum b ≤ 255 * b.length := by
  induction b with
  | nil => simp [byteSum]
  | cons x b ih =>
    have := x.isLt
    simp only [byteSum, List.length_cons]
    omega

/-! ### Bytes as numbers -/

theorem leNat_append (a b : List Byte) : leNat (a ++ b) = leNat a + 2 ^ (8 * a.length) * leNat b := by
  induction a with
  | nil => simp [leNat]
  | cons x a ih =>
    rw [List.cons_append, leNat, leNat, ih, List.length_cons, Nat.mul_succ, Nat.pow_add]
    ring

theorem leNat_lt (b : List Byte) : leNat b < 2 ^ (8 * b.length) := by
  induction b with
  | nil => simp [leNat]
  | cons x b ih =>
    have := x.isLt
    rw [leNat, List.length_cons, Nat.mul_succ, Nat.pow_add]
    omega

theorem foldl_be_init (b : List Byte) (a : Nat) :
    b.foldl (fun acc x => 256 * acc + x.toNat) a = 2 ^ (8 * b.length) * a + beNat b := by
  induction b generalizing a with
  | nil => simp [beNat]
  | cons x b ih =>
    simp only [beNat, List.foldl_cons, List.length_cons] at ih ⊢
    rw [ih, ih (256 * 0 + x.toNat), Nat.mul_succ, Nat.pow_add]
    ring

theorem beNat_cons (x : Byte) (b : List Byte) : beNat (x :: b) = 2 ^ (8 * b.length) * x.toNat + beNat b := by
  rw [beNat, List.foldl_cons, foldl_be_init]
  simp

theorem beNat_append (a b : List Byte) : beNat (a ++ b) = 2 ^ (8 * b.length) * beNat a + beNat b := by
  rw [beNat, List.foldl_append, foldl_be_init]
  rfl

theorem beNat_lt (b : List Byte) : beNat b < 2 ^ (8 * b.length) := by
  induction b with
  | nil => simp [beNat]
  | cons x b ih =>
    have := x.isLt
    rw [beNat_cons, List.length_cons, Nat.mul_succ, Nat.pow_add]
    nlinarith

/-! ### The validity check -/

/-- A slice a check finds valid has the bytes its specification needs. -/
theorem length_of_xorValid {b : List Byte} {off : Nat} (h : (xorValid b off).valid = true) : off + 1 ≤ b.length := by
  unfold xorValid at h
  split at h
  · simp [Verdict.tooShort] at h
  · omega

theorem length_of_addValid {b : List Byte} {size off : Nat} {e : Endian} (h : (addValid b size off e).valid = true) :
    size ≤ b.length ∧ off ≤ b.length - size := by
  unfold addValid at h
  split at h
  · simp [Verdict.tooShort] at h
  · omega

/-- A range failure always comes with VALID = 0 (10_state.md R39). -/
theorem valid_eq_false_of_rangeFail {b : List Byte} {spec : ChecksumSpec}
    (h : (isChecksumValid b spec).rangeFail = true) : (isChecksumValid b spec).valid = false := by
  cases spec with
  | xor off =>
    simp only [isChecksumValid, xorValid] at h ⊢
    split at h <;> simp_all [Verdict.tooShort]
  | add size off e =>
    simp only [isChecksumValid, addValid] at h ⊢
    split at h <;> simp_all [Verdict.tooShort]

end Sys2Proof.Machine
end

