-- ==== Sys2Proof/Laws/Commands.lean ====
section
/-! SUPPORT. What a command's two phases can do, what a host access can do and what a step can do, each said once. -/

namespace Sys2Proof.Machine

/-! ### The two phases of a command -/

/-- What each command computes. -/
def resultsOf : Instr → State → Results
  | .scan => scanResults
  | .xorsum => xorsumResults
  | .addsum => addsumResults
  | .b2u => b2uResults
  | .validate => validateResults

theorem exec_eq_runCommand (i : Instr) (s : State) : exec i s = runCommand i (resultsOf i) s := by
  cases i <;> rfl

theorem exec_idle {s : State} (h : s.pending = none) (i : Instr) : exec i s = .next (acceptCommand i s) := by
  simp [exec_eq_runCommand, runCommand, h]

theorem exec_pending {s : State} {i : Instr} (h : s.pending = some i) :
    exec i s = .next (s.complete (resultsOf i s)) := by
  simp [exec_eq_runCommand, runCommand, h]

theorem exec_other {s : State} {i j : Instr} (h : s.pending = some j) (hij : j ≠ i) :
    exec i s = .next s.ignoreWrite := by
  simp [exec_eq_runCommand, runCommand, h, hij]

/-- A command always answers a next state: the acceptance, the completion, or the ignored write. -/
theorem exec_cases (i : Instr) (s : State) :
    (s.pending = none ∧ exec i s = .next (acceptCommand i s)) ∨
    (s.pending = some i ∧ exec i s = .next (s.complete (resultsOf i s))) ∨
    (∃ j, s.pending = some j ∧ j ≠ i ∧ exec i s = .next s.ignoreWrite) := by
  cases h : s.pending with
  | none => exact .inl ⟨rfl, exec_idle h i⟩
  | some j =>
    by_cases hij : j = i
    · subst hij; exact .inr (.inl ⟨rfl, exec_pending h⟩)
    · exact .inr (.inr ⟨j, rfl, hij, exec_other h hij⟩)

theorem busy_eq_false_iff {s : State} : s.busy = false ↔ s.pending = none := by
  simp [State.busy]

theorem busy_eq_true_iff {s : State} : s.busy = true ↔ ∃ i, s.pending = some i := by
  simp [State.busy, Option.isSome_iff_exists]

/-! ### Acceptance -/

theorem acceptCommand_ok {i : Instr} {s : State} (h : checkCommand i s = .noError) :
    acceptCommand i s = s.clearReport.accept i := by
  simp [acceptCommand, h]

theorem acceptCommand_error {i : Instr} {s : State} (h : checkCommand i s ≠ .noError) :
    acceptCommand i s = s.clearReport.raiseError (checkCommand i s) := by
  unfold acceptCommand
  split
  · exact absurd ‹_› h
  · rfl

/-- The checks read the configuration and the build alone. -/
theorem checkCommand_congr {i : Instr} {s t : State} (hp : t.params = s.params) (h1 : t.bufLen = s.bufLen)
    (h2 : t.hdrLen = s.hdrLen) (h3 : t.ckcfg = s.ckcfg) (h4 : t.argStart = s.argStart) (h5 : t.argLen = s.argLen) :
    checkCommand i t = checkCommand i s := by
  simp [checkCommand, hp, h1, h2, h3, h4, h5]

/-- When no check fails, the configuration is within the limits. -/
theorem checkCommand_noError_iff {i : Instr} {s : State} :
    checkCommand i s = .noError ↔
      s.bufLen.toNat ≤ s.params.bufMax ∧
      (i = .scan → 1 ≤ s.hdrLen.toNat ∧ s.hdrLen.toNat ≤ s.params.hdrMax) ∧
      (sizeUsed s.ckcfg.mode i = true → 1 ≤ s.ckcfg.size.toNat ∧ s.ckcfg.size.toNat ≤ 8) ∧
      (rangeOp i = true → s.argStart.toNat + s.argLen.toNat ≤ s.bufLen.toNat) ∧
      (i = .b2u → s.argLen.toNat ≤ 8) := by
  unfold checkCommand
  split_ifs with h1 h2 h3 h4 h5 h6
  · simp only [false_iff, not_and]; omega
  · simp only [false_iff]; intro h; have := h.2.1 h2.1; omega
  · simp only [false_iff]; intro h; have := h.2.1 h3.1; omega
  · simp only [false_iff]; intro h; have := h.2.2.1 h4.1; omega
  · simp only [false_iff]; intro h; have := h.2.2.2.1 h5.1; omega
  · simp only [false_iff]; intro h; have := h.2.2.2.2 h6.1; omega
  · simp only [true_iff]
    refine ⟨by omega, fun e => ?_, fun e => ?_, fun e => ?_, fun e => ?_⟩
    · have h2' := not_and.1 h2 e
      have h3' := not_and.1 h3 e
      omega
    · have h4' := not_and.1 h4 e
      omega
    · have h5' := not_and.1 h5 e
      omega
    · have h6' := not_and.1 h6 e
      omega

/-! ### Descriptors -/

/-- What the table holds after packets are stored: the packets from entry `k` on, the old entries elsewhere. -/
theorem cellsGet_storeDescs (k : Nat) (P : List (Nat × Nat)) (t : DescTable) (j : Nat) :
    cellsGet (storeDescs k P t) j =
      if k ≤ j ∧ j < k + P.length then
        (P[j - k]?).map (fun q => { start := BitVec.ofNat 32 q.1, len := BitVec.ofNat 32 q.2 })
      else cellsGet t j := by
  induction P generalizing k t with
  | nil => rw [storeDescs, if_neg (by simp)]
  | cons q P ih =>
    rw [storeDescs, ih]
    simp only [List.length_cons, cellsGet_cellsInsert]
    by_cases h1 : j = k
    · subst h1
      simp
    · by_cases h2 : k + 1 ≤ j
      · have e : j - k = (j - (k + 1)) + 1 := by omega
        rw [e, List.getElem?_cons_succ, if_neg h1]
        by_cases h3 : j < k + 1 + P.length
        · rw [if_pos ⟨h2, h3⟩, if_pos ⟨by omega, by omega⟩]
        · rw [if_neg (by omega), if_neg (by omega)]
      · rw [if_neg (by omega), if_neg h1, if_neg (by omega)]

theorem cellsRiseFrom_storeDescs (k : Nat) (P : List (Nat × Nat)) {t : DescTable} (h : cellsRiseFrom 0 t = true) :
    cellsRiseFrom 0 (storeDescs k P t) = true := by
  induction P generalizing k t with
  | nil => exact h
  | cons q P ih => exact ih (k + 1) (cellsRiseFrom_cellsInsert h (Nat.zero_le k) _)

theorem mem_storeDescs {k : Nat} {P : List (Nat × Nat)} {t : DescTable} {d : Nat × Desc}
    (h : d ∈ storeDescs k P t) : d ∈ t ∨ (k ≤ d.1 ∧ d.1 < k + P.length) := by
  induction P generalizing k t with
  | nil => exact .inl h
  | cons q P ih =>
    rcases ih h with h | h
    · rcases mem_cellsInsert h with rfl | h
      · exact .inr ⟨Nat.le_refl k, by simp⟩
      · exact .inl h
    · simp only [List.length_cons]
      exact .inr ⟨by omega, by omega⟩

/-! ### Host accesses -/

/-- What a write without error does to the state it finds, by target. -/
inductive WriteEffect (s : State) : State → Prop where
  /-- a read-only, reserved or descriptor target -/
  | nothing : WriteEffect s s
  /-- CMD, a configuration register or a window of a busy block -/
  | ignored (h : s.busy = true) : WriteEffect s s.ignoreWrite
  | ctrl (v : Word) : WriteEffect s (s.writeCtrl v)
  | status (v : Word) : WriteEffect s (s.writeStatus v)
  | config (h : s.busy = false) (r : Reg) (v : Word) : WriteEffect s (s.storeConfig r v)
  | window (h : s.busy = false) (x : Nat) (bs : List Byte) : WriteEffect s (s.writeBytes x bs)
  /-- CMD of an idle block, with a command's word -/
  | command (h : s.busy = false) (i : Instr) : WriteEffect s (acceptCommand i s)
  /-- CMD of an idle block, with an illegal word -/
  | illegal (h : s.busy = false) : WriteEffect s (s.clearReport.raiseError .illegalCmd)

theorem cmdWrite_effect (w : Word) (s : State) : ∃ t, cmdWrite w s = .next t ∧ WriteEffect s t := by
  unfold cmdWrite
  cases hb : s.busy with
  | true => exact ⟨_, rfl, .ignored hb⟩
  | false =>
    simp only [Bool.false_eq_true, if_false]
    cases decodeWord w with
    | ok i => exact ⟨_, exec_idle (busy_eq_false_iff.1 hb) i, .command hb i⟩
    | error e => exact ⟨_, rfl, .illegal hb⟩

theorem writeConfig_effect (s : State) (r : Reg) (v : Word) : WriteEffect s (s.writeConfig r v) := by
  unfold State.writeConfig
  cases hb : s.busy with
  | true => exact .ignored hb
  | false => exact .config hb r v

theorem writeWindow_effect (s : State) (x : Nat) (n : Size) (v : Word) : WriteEffect s (s.writeWindow x n v) := by
  unfold State.writeWindow
  cases hb : s.busy with
  | true => exact .ignored hb
  | false => exact .window hb x _

theorem writeReg_effect (r : Reg) (v : Word) (s : State) : ∃ t, writeReg r v s = .next t ∧ WriteEffect s t := by
  cases r <;> first
    | exact cmdWrite_effect v s
    | exact ⟨_, rfl, .nothing⟩
    | exact ⟨_, rfl, .ctrl v⟩
    | exact ⟨_, rfl, .status v⟩
    | exact ⟨_, rfl, writeConfig_effect s _ v⟩

theorem writeData_effect (x : Nat) (n : Size) (v : Word) (s : State) :
    ∃ t, writeData x n v s = .next t ∧ WriteEffect s t := by
  unfold writeData
  split
  · split
    · exact writeReg_effect _ v s
    · exact ⟨_, rfl, .nothing⟩
  · exact ⟨_, rfl, writeWindow_effect s x n v⟩
  · exact ⟨_, rfl, writeWindow_effect s x n v⟩
  · exact ⟨_, rfl, .nothing⟩
  · exact ⟨_, rfl, .nothing⟩

/-- A host access always answers: a read changes the response and the draw number alone, a write has one effect. -/
theorem hostAccess_cases (a : Access) (s : State) :
    ∃ t, hostAccess a s = .next t ∧
      ((∃ r, t = { s with resp := r } ∨ t = { s with resp := r, draws := s.draws + 1 }) ∨
        WriteEffect (s.respond 0 false) t) := by
  cases a with
  | read x n =>
    refine ⟨_, rfl, .inl ?_⟩
    unfold hostRead
    split
    · exact ⟨_, .inr rfl⟩
    · exact ⟨_, .inl rfl⟩
  | write x n v =>
    simp only [hostAccess, hostWrite]
    split
    · obtain ⟨t, h1, h2⟩ := writeData_effect x.toNat n v (s.respond 0 false)
      exact ⟨t, h1, .inr h2⟩
    · exact ⟨_, rfl, .inl ⟨_, .inl rfl⟩⟩

/-! ### Steps -/

/-- The engine's turn: the completion of the pending command, or nothing. -/
theorem engineStep_cases (s : State) :
    (s.pending = none ∧ engineStep s = .next s) ∨
    (∃ i, s.pending = some i ∧ engineStep s = .next (s.complete (resultsOf i s))) := by
  unfold engineStep
  cases h : s.pending with
  | none => exact .inl ⟨rfl, rfl⟩
  | some i => exact .inr ⟨i, rfl, exec_pending h⟩

/-- Everything a step that answers a next state can do: a host access, the engine's completion, nothing, or a reset. -/
theorem step_cases {s t : State} (h : step s = .next t) :
    (∃ a rest, s.schedule = .host a :: rest ∧ hostAccess a s.popEvent = .next t) ∨
    (∃ i, s.pending = some i ∧ (s.schedule = [] ∨ ∃ rest, s.schedule = .engine :: rest) ∧
      t = s.popEvent.complete (resultsOf i s.popEvent)) ∨
    (s.pending = none ∧ (s.schedule = [] ∨ ∃ rest, s.schedule = .engine :: rest) ∧ t = s.popEvent) ∨
    (∃ rest, s.schedule = .reset :: rest ∧ t = s.popEvent.applyReset) := by
  have hpop : s.schedule = [] → s.popEvent = s := by
    intro e; cases s; simp_all [State.popEvent]
  unfold step at h
  split at h
  · rename_i e rest hs
    cases e with
    | host a => exact .inl ⟨a, rest, hs, h⟩
    | engine =>
      rcases engineStep_cases s.popEvent with ⟨h1, h2⟩ | ⟨i, h1, h2⟩
      · simp only [runEvent, h2, Host.Outcome.next.injEq] at h
        exact .inr (.inr (.inl ⟨h1, .inr ⟨rest, hs⟩, h.symm⟩))
      · simp only [runEvent, h2, Host.Outcome.next.injEq] at h
        exact .inr (.inl ⟨i, h1, .inr ⟨rest, hs⟩, h.symm⟩)
    | reset =>
      simp only [runEvent, Host.Outcome.next.injEq] at h
      exact .inr (.inr (.inr ⟨rest, hs, h.symm⟩))
    | hostInReset a => simp [runEvent] at h
  · rename_i hs
    rw [hpop hs]
    rcases engineStep_cases s with ⟨h1, h2⟩ | ⟨i, h1, h2⟩
    · simp only [h2, Host.Outcome.next.injEq] at h
      exact .inr (.inr (.inl ⟨h1, .inl hs, h.symm⟩))
    · simp only [h2, Host.Outcome.next.injEq] at h
      exact .inr (.inl ⟨i, h1, .inl hs, h.symm⟩)

end Sys2Proof.Machine
end

