-- ==== Sys2Proof/Laws/PerInstr.lean ====
section
/-! SUPPORT. Facts about every command as syntax, one lemma per constructor. -/

namespace Sys2Proof.Laws.TableWord

/-- The command's word is the one its row of the opcode table matches, in the table's numbering, and it is four bytes
of which only the first is not 0 (30_encoding.md R100, R101). -/
def Statement (i : Instr) : Prop :=
  i.wf = true ∧ decodeTableWord 32 (encodeWord i).toNat = some i ∧ (encode i).length = 4 ∧
  (encode i).tail = [0, 0, 0] ∧ (Cmd32.ofWord (encodeWord i)).wf = true ∧
  opcodeTable.filter (fun r => r.matches (encodeWord i)) = [{ mask := 0xFFFFFFFF, pattern := encodeWord i, instr := i }]

theorem scan : Statement .scan := by unfold Statement; decide

theorem xorsum : Statement .xorsum := by unfold Statement; decide

theorem addsum : Statement .addsum := by unfold Statement; decide

theorem b2u : Statement .b2u := by unfold Statement; decide

theorem validate : Statement .validate := by unfold Statement; decide

end Sys2Proof.Laws.TableWord
end

