-- ==== Sys2Proof/Laws/Scan.lean ====
section
/-! SUPPORT. What one pass of the scan can do, that the passes suffice, and induction over a finished scan. -/

namespace Sys2Proof.Machine

/-! ### The search for a candidate -/

theorem candidate_eq_some {I : ScanInput} {c s : Nat} (h : I.candidate c = some s) :
    c ≤ s ∧ s < I.n ∧ I.hdr.head? = some (I.byte .search s) ∧
      ∀ k, c ≤ k → k < s → I.hdr.head? ≠ some (I.byte .search k) := by
  unfold ScanInput.candidate at h
  obtain ⟨h1, as, bs, hl, h2⟩ := List.find?_eq_some_iff_append.1 h
  have hm : s ∈ List.range' c (I.n - c) := by rw [hl]; simp
  have hb := List.mem_range'_1.1 hm
  refine ⟨hb.1, by omega, by simpa using h1, fun k hck hks => ?_⟩
  have hk : k ∈ List.range' c (I.n - c) := List.mem_range'_1.2 ⟨hck, by omega⟩
  have hsorted : (List.range' c (I.n - c)).Pairwise (· < ·) := List.pairwise_lt_range'
  rw [hl] at hk hsorted
  rcases List.mem_append.1 hk with hk | hk
  · simpa using h2 k hk
  · rcases List.mem_cons.1 hk with rfl | hk
    · omega
    · have := (List.pairwise_cons.1 (List.pairwise_append.1 hsorted).2.1).1 k hk
      omega

theorem candidate_eq_none {I : ScanInput} {c : Nat} (h : I.candidate c = none) :
    ∀ k, c ≤ k → k < I.n → I.hdr.head? ≠ some (I.byte .search k) := by
  intro k hck hkn
  unfold ScanInput.candidate at h
  have := List.find?_eq_none.1 h k (List.mem_range'_1.2 ⟨hck, by omega⟩)
  simpa using this

/-! ### One candidate -/

/-- How the steps 3 to 8 end at a candidate start, each with the conditions that lead there (42_scan.md R173 to
R178). -/
theorem tryCandidate_cases (I : ScanInput) (s : Nat) :
    (I.n - s < I.hdr.length ∧ I.tryCandidate s = .stop (s, I.n - s)) ∨
    (I.hdr.length ≤ I.n - s ∧ I.bytes (.header s) s I.hdr.length = I.hdr ∧ I.n - s < I.li + 1 ∧
      I.tryCandidate s = .stop (s, I.n - s)) ∨
    (I.tryCandidate s = .skip (s + 1) ∧ I.hdr.length ≤ I.n - s ∧
      (I.bytes (.header s) s I.hdr.length ≠ I.hdr ∨
        (I.li + 1 ≤ I.n - s ∧ I.n - s < I.packetLen s) ∨
        (I.li + 1 ≤ I.n - s ∧
          (isChecksumValid (I.bytes (.check s) s (I.packetLen s)) I.spec).valid = false))) ∨
    (I.hdr.length ≤ I.n - s ∧ I.bytes (.header s) s I.hdr.length = I.hdr ∧ I.li + 1 ≤ I.n - s ∧
      I.packetLen s ≤ I.n - s ∧ (isChecksumValid (I.bytes (.check s) s (I.packetLen s)) I.spec).valid = true ∧
      I.tryCandidate s = .packet s (I.packetLen s) (if I.adv then s + I.packetLen s else s + 1)) := by
  unfold ScanInput.tryCandidate
  split_ifs with h1 h2 h3 h4 h5 h6
  · exact .inl ⟨h1, rfl⟩
  · exact .inr (.inr (.inl ⟨rfl, by omega, .inl h2⟩))
  · exact .inr (.inl ⟨by omega, not_not.1 h2, h3, rfl⟩)
  · exact .inr (.inr (.inl ⟨rfl, by omega, .inr (.inl ⟨by omega, h4⟩)⟩))
  · exact .inr (.inr (.inl ⟨rfl, by omega, .inr (.inr ⟨by omega, h5⟩)⟩))
  · exact .inr (.inr (.inr ⟨by omega, not_not.1 h2, by omega, by omega, by simpa using h5, rfl⟩))
  · exact .inr (.inr (.inr ⟨by omega, not_not.1 h2, by omega, by omega, by simpa using h5, rfl⟩))

theorem bytes_length (I : ScanInput) (t : ReadTag) (a len : Nat) : (I.bytes t a len).length = len := by
  simp [ScanInput.bytes]

/-! ### One pass moves the cursor forward -/

/-- Acceptance lets through additive specifications of at least one byte only (40_command.md R121 code 5). -/
abbrev ScanInput.sized (I : ScanInput) : Prop := ∀ size off e, I.spec = .add size off e → 1 ≤ size

theorem one_le_length_of_valid {I : ScanInput} (hI : I.sized) {b : List Byte}
    (h : (isChecksumValid b I.spec).valid = true) : 1 ≤ b.length := by
  cases hs : I.spec with
  | xor off =>
    rw [hs] at h
    have := length_of_xorValid h
    omega
  | add size off e =>
    rw [hs] at h
    have := length_of_addValid h
    have := hI size off e hs
    omega

/-- A pass returns, or moves the cursor strictly forward within the buffer (42_scan.md R180). -/
theorem pass_progress {I : ScanInput} (hI : I.sized) {c c' : Nat}
    (h : I.pass c = .skip c' ∨ ∃ a L, I.pass c = .packet a L c') : c < c' ∧ c' ≤ I.n := by
  unfold ScanInput.pass at h
  cases hk : I.candidate c with
  | none => simp [hk] at h
  | some s =>
    obtain ⟨hcs, hsn, -, -⟩ := candidate_eq_some hk
    simp only [hk] at h
    rcases tryCandidate_cases I s with ⟨_, e⟩ | ⟨_, _, _, e⟩ | ⟨e, _⟩ | ⟨_, _, _, hL, hv, e⟩ <;> rw [e] at h
    · simp at h
    · simp at h
    · simp only [Pass.skip.injEq, reduceCtorEq, exists_false, or_false] at h
      omega
    · have hl := one_le_length_of_valid hI hv
      rw [bytes_length] at hl
      simp only [reduceCtorEq, Pass.packet.injEq, false_or] at h
      obtain ⟨_, _, _, _, h⟩ := h
      split_ifs at h <;> omega

/-! ### A finished scan -/

/-- A finished scan from a cursor, pass by pass: the packets it reports and the remainder it returns. -/
inductive ScanRun (I : ScanInput) : Nat → List (Nat × Nat) → Nat × Nat → Prop where
  | stop {c rem} (h : I.pass c = .stop rem) : ScanRun I c [] rem
  | skip {c c' P rem} (h : I.pass c = .skip c') (t : ScanRun I c' P rem) : ScanRun I c P rem
  | packet {c a L c' P rem} (h : I.pass c = .packet a L c') (t : ScanRun I c' P rem) : ScanRun I c ((a, L) :: P) rem

theorem scanRun_of_loop {I : ScanInput} {f c : Nat} {r : List (Nat × Nat) × (Nat × Nat)}
    (h : I.loop f c = some r) : ScanRun I c r.1 r.2 := by
  induction f generalizing c r with
  | zero => simp [ScanInput.loop] at h
  | succ f ih =>
    simp only [ScanInput.loop] at h
    split at h
    · cases h; exact .stop ‹_›
    · exact .skip ‹_› (ih h)
    · split at h
      · cases h; exact .packet ‹_› (ih ‹I.loop f _ = some _›)
      · simp at h

theorem loop_isSome {I : ScanInput} (hI : I.sized) {f c : Nat} (hc : c ≤ I.n) (hf : I.n + 1 ≤ f + c) :
    ∃ r, I.loop f c = some r := by
  induction f generalizing c with
  | zero => omega
  | succ f ih =>
    simp only [ScanInput.loop]
    cases hp : I.pass c with
    | stop rem => exact ⟨_, rfl⟩
    | skip c' =>
      have := pass_progress hI (.inl hp)
      exact ih this.2 (by omega)
    | packet a L c' =>
      have := pass_progress hI (.inr ⟨a, L, hp⟩)
      obtain ⟨r, hr⟩ := ih (c := c') this.2 (by omega)
      simp only [hr]
      exact ⟨_, rfl⟩

/-- The scan runs from cursor 0 to its end. -/
theorem scanRun_findValidPackets {I : ScanInput} (hI : I.sized) :
    ScanRun I 0 (findValidPackets I).1 (findValidPackets I).2 := by
  obtain ⟨r, hr⟩ := loop_isSome hI (Nat.zero_le I.n) (Nat.le_refl (I.n + 1))
  have : findValidPackets I = r := by simp [findValidPackets, hr]
  rw [this]
  exact scanRun_of_loop hr

/-- A finished scan from a cursor is the only one. -/
theorem ScanRun.unique {I : ScanInput} {c : Nat} {P P' : List (Nat × Nat)} {rem rem' : Nat × Nat}
    (h : ScanRun I c P rem) (h' : ScanRun I c P' rem') : P = P' ∧ rem = rem' := by
  induction h generalizing P' rem' with
  | stop h =>
    cases h' with
    | stop h2 => rw [h] at h2; cases h2; exact ⟨rfl, rfl⟩
    | skip h2 => rw [h] at h2; cases h2
    | packet h2 => rw [h] at h2; cases h2
  | skip h t ih =>
    cases h' with
    | stop h2 => rw [h] at h2; cases h2
    | skip h2 t2 => rw [h] at h2; cases h2; exact ih t2
    | packet h2 => rw [h] at h2; cases h2
  | packet h t ih =>
    cases h' with
    | stop h2 => rw [h] at h2; cases h2
    | skip h2 => rw [h] at h2; cases h2
    | packet h2 t2 =>
      rw [h] at h2
      cases h2
      obtain ⟨e1, e2⟩ := ih t2
      exact ⟨by rw [e1], e2⟩

/-! ### Only the bytes of the buffer matter -/

theorem bytes_congr {I : ScanInput} {byte' : ReadTag → Nat → Byte} (h : ∀ t k, k < I.n → byte' t k = I.byte t k)
    (t : ReadTag) {a len : Nat} (hl : a + len ≤ I.n) :
    ScanInput.bytes { I with byte := byte' } t a len = I.bytes t a len := by
  unfold ScanInput.bytes
  refine List.map_congr_left fun k hk => h t k ?_
  have := List.mem_range'_1.1 hk
  omega

theorem pass_congr {I : ScanInput} {byte' : ReadTag → Nat → Byte} (h : ∀ t k, k < I.n → byte' t k = I.byte t k)
    (c : Nat) : ScanInput.pass { I with byte := byte' } c = I.pass c := by
  have hc : ScanInput.candidate { I with byte := byte' } c = I.candidate c := by
    unfold ScanInput.candidate
    refine List.find?_congr fun k hk => ?_
    have hk' : c ≤ k ∧ k < c + (I.n - c) := List.mem_range'_1.1 hk
    have hb := h .search k (by omega)
    simp only [hb]
  unfold ScanInput.pass
  rw [hc]
  cases hk : I.candidate c with
  | none => rfl
  | some s =>
    obtain ⟨-, hsn, -, -⟩ := candidate_eq_some hk
    simp only [ScanInput.tryCandidate]
    by_cases h1 : I.n - s < I.hdr.length
    · simp [h1]
    by_cases h3 : I.n - s < I.li + 1
    · simp only [h1, h3, if_true, if_false, bytes_congr h (.header s) (show s + I.hdr.length ≤ I.n by omega)]
    have hp : ScanInput.packetLen { I with byte := byte' } s = I.packetLen s := by
      simp only [ScanInput.packetLen, h (.length s) (s + I.li) (by omega)]
    rw [hp]
    by_cases h4 : I.n - s < I.packetLen s
    · simp only [h1, h3, h4, if_true, if_false, bytes_congr h (.header s) (show s + I.hdr.length ≤ I.n by omega)]
    · simp only [h1, h3, h4, if_false, bytes_congr h (.header s) (show s + I.hdr.length ≤ I.n by omega),
        bytes_congr h (.check s) (show s + I.packetLen s ≤ I.n by omega)]

theorem loop_congr {I : ScanInput} {byte' : ReadTag → Nat → Byte} (h : ∀ t k, k < I.n → byte' t k = I.byte t k)
    (f c : Nat) : ScanInput.loop { I with byte := byte' } f c = I.loop f c := by
  induction f generalizing c with
  | zero => rfl
  | succ f ih => simp only [ScanInput.loop, pass_congr h, ih]

end Sys2Proof.Machine
end

