-- ==== Sys2Proof/Tests/Slice0.lean ====
section
/-! SUPPORT. Smoke tests of the checks, decode tests from words written out of 30_encoding.md, one-step tests with the
expected values of 95_test_vectors.md, and the witnesses of the obligations' hypotheses. -/

namespace Sys2Proof.Tests

open Sys2Proof.Machine Sys2Proof.Claims

/-! ### Helpers -/

/-- Cells at rising offsets. -/
def cellsAt (x : Nat) : List Byte → Memory
  | [] => []
  | b :: bs => (x, b) :: cellsAt (x + 1) bs

/-- The reference build after reset with a buffer and a header loaded. The header's bytes must not be 0. -/
def loaded (B H : List Byte) : State :=
  { State.reset with
    bufLen := BitVec.ofNat 32 B.length, hdrLen := BitVec.ofNat 32 H.length
    mem := cellsAt hdrBase H ++ cellsAt bufBase B }

/-- A field of the next state. -/
def after {α : Type} (o : Host.Outcome State Fault Refusal) (f : State → α) : Option α :=
  match o with
  | .next t => some (f t)
  | .fault _ => none
  | .refused _ => none

/-- The command accepted in `s` and completed. -/
def completed (i : Instr) (s : State) : Host.Outcome State Fault Refusal := exec i (acceptedAs s i)

/-- The two packets of E1 (95_test_vectors.md). -/
def e1 : List Byte :=
  [0x73, 0x6E, 0x70, 0x01, 0x05, 0x10, 0x20, 0x30, 0x40, 0x50, 0x79,
    0x73, 0x6E, 0x70, 0x02, 0x03, 0xAA, 0xBB, 0xCC, 0xB1]

/-- E1 with its configuration and the policies `ADV = 0`, `TAIL = 1`. -/
def e1State : State :=
  { loaded e1 [0x73, 0x6E, 0x70] with
    lenIndex := 4, lenOffset := 6, ctrl := { ie := false, adv := false, tail := true } }

/-- A range command's inputs. -/
def rangeState (B : List Byte) (start len : Word) (cfg : Word) : State :=
  { loaded B [0xAA] with argStart := start, argLen := len, ckcfg := CkCfg.ofWord cfg }

/-- Vector S15: one packet of three bytes. -/
def s15 : State := { loaded [0xAA, 0x01, 0xAB] [0xAA] with lenIndex := 1, lenOffset := 2 }

/-- Next comes one event. -/
def nextIs (s : State) (e : Event) : State := { s with schedule := [e] }

/-- While SCAN runs on S15. -/
def busy15 : State := acceptedAs s15 .scan

/-! ### The checks refuse what is ill-formed -/

theorem test_wf_accepts : (⟨0, 3⟩ : Cmd32).wf = true := by decide
theorem test_wf_reserved_bits : (⟨1, 3⟩ : Cmd32).wf = false ∧ (⟨1, 3⟩ : Cmd32).reservedClear = false := by decide
theorem test_wf_opcode_zero : (⟨0, 0⟩ : Cmd32).wf = false ∧ (⟨0, 0⟩ : Cmd32).opDefined = false := by decide
theorem test_wf_opcode_six : (⟨0, 6⟩ : Cmd32).wf = false ∧ (⟨0, 6⟩ : Cmd32).opDefined = false := by decide
theorem test_params_reference : Params.reference.legal = true := by decide
theorem test_params_buf_max :
    ({ Params.reference with bufMax := 0 } : Params).legal = false ∧
    ({ Params.reference with bufMax := 65537 } : Params).legal = false ∧
    ({ Params.reference with bufMax := 65537 } : Params).bufMaxLegal = false := by decide
theorem test_params_hdr_max :
    ({ Params.reference with hdrMax := 0 } : Params).legal = false ∧
    ({ Params.reference with hdrMax := 257 } : Params).legal = false ∧
    ({ Params.reference with hdrMax := 257 } : Params).hdrMaxLegal = false := by decide
theorem test_params_pkt_max :
    ({ Params.reference with pktMax := 0 } : Params).legal = false ∧
    ({ Params.reference with pktMax := 4097 } : Params).legal = false ∧
    ({ Params.reference with pktMax := 4097 } : Params).pktMaxLegal = false := by decide

/-! ### Decoding (the words of 30_encoding.md R101, bit by bit) -/

theorem test_decode_scan :
    decodeWord 0b00000000000000000000000000000001 = .ok .scan ∧ decodeBytes [0x01, 0, 0, 0] = .ok .scan := by decide
theorem test_decode_xorsum :
    decodeWord 0b00000000000000000000000000000010 = .ok .xorsum ∧ decodeBytes [0x02, 0, 0, 0] = .ok .xorsum := by
  decide
theorem test_decode_addsum :
    decodeWord 0b00000000000000000000000000000011 = .ok .addsum ∧ decodeBytes [0x03, 0, 0, 0] = .ok .addsum := by
  decide
theorem test_decode_b2u :
    decodeWord 0b00000000000000000000000000000100 = .ok .b2u ∧ decodeBytes [0x04, 0, 0, 0] = .ok .b2u := by decide
theorem test_decode_validate :
    decodeWord 0b00000000000000000000000000000101 = .ok .validate ∧ decodeBytes [0x05, 0, 0, 0] = .ok .validate := by
  decide
theorem test_decode_illegal :
    decodeWord 0 = .error .illegalCmd ∧ decodeWord 6 = .error .illegalCmd ∧
    decodeWord 0x00000101 = .error .illegalCmd ∧ decodeWord 0xFFFFFFFF = .error .illegalCmd ∧
    decodeBytes [0x01, 0, 0] = .error .notOneWord := by decide
theorem test_decode_table_word : decodeTableWord 32 3 = some .addsum ∧ decodeTableWord 32 0x103 = none := by decide

/-! ### One step each (expected values: 95_test_vectors.md) -/

/-- Reset: the memory is canonical (10_state.md R48). -/
theorem test_reset_memory : Memory.wf State.reset.mem = true := by decide

/-- E1 and S1, (0,1): `(0,11),(11,9); (12,8)`. -/
theorem test_scan_e1 :
    after (completed .scan e1State) (fun t => (t.pktCount, t.remStart, t.remLen, t.desc)) =
      some (2, 12, 8, [(0, ⟨0, 11⟩), (1, ⟨11, 9⟩)]) := by decide +kernel

/-- S9, (1,0) on the overlapping frames: `(0,6); (6,0)`. -/
theorem test_scan_s9_advance_past :
    after (completed .scan { loaded [0xAA, 3, 0xAA, 0, 0xAA, 0xA9] [0xAA] with
        lenIndex := 1, lenOffset := 3, ctrl := { ie := false, adv := true, tail := false } })
      (fun t => (t.pktCount, t.remStart, t.remLen, t.desc)) = some (1, 6, 0, [(0, ⟨0, 6⟩)]) := by decide +kernel

/-- X4: `10 20 30 40 50`. -/
theorem test_xorsum_x4 :
    after (completed .xorsum (rangeState e1 5 5 0)) (fun t => (t.resHi, t.resLo)) = some (0, 0x10) := by
  decide +kernel

/-- X5: the legal empty range at the buffer's end. -/
theorem test_xorsum_x5 :
    after (completed .xorsum (rangeState e1 20 0 0)) (fun t => (t.resHi, t.resLo)) = some (0, 0) := by decide +kernel

/-- A2: the sum wraps at 256. -/
theorem test_addsum_a2 :
    after (completed .addsum (rangeState [0xFF, 0x02] 0 2 0x11)) (fun t => (t.resHi, t.resLo)) = some (0, 1) := by
  decide +kernel

/-- A7: MODE and ENDIAN are ignored. -/
theorem test_addsum_a7 :
    after (completed .addsum (rangeState [0xFF, 0xFE, 0x86, 0x11, 0xD9] 0 5 0x22)) (fun t => (t.resHi, t.resLo)) =
      some (0, 0x36D) := by decide +kernel

/-- U3: big-endian over both result registers. -/
theorem test_b2u_u3 :
    after (completed .b2u (rangeState [1, 2, 3, 4, 5, 6, 7, 8] 0 8 0)) (fun t => (t.resHi, t.resLo)) =
      some (0x01020304, 0x05060708) := by decide +kernel

/-- U2: little-endian. -/
theorem test_b2u_u2 :
    after (completed .b2u (rangeState [0x03, 0x6D] 0 2 2)) (fun t => (t.resHi, t.resLo)) = some (0, 0x6D03) := by
  decide +kernel

/-- V3: the stored checksum read little-endian does not match. -/
theorem test_validate_v3 :
    after (completed .validate (rangeState [0xFF, 0xFE, 0x86, 0x11, 0xD9, 0x03, 0x6D] 0 7 0x23))
      (fun t => t.resFlags.toWord) = some 0 := by decide +kernel

/-- V10: `off + 1` does not wrap. -/
theorem test_validate_v10 :
    after (completed .validate { rangeState [0x12, 0x34, 0x01] 0 3 0 with ckOffset := 0xFFFFFFFF })
      (fun t => t.resFlags.toWord) = some 2 := by decide +kernel

/-- M1 and M3: the least significant byte goes to the lowest offset. -/
theorem test_port_byte_order :
    after (step (nextIs State.reset (.host (.write 0x10000 .b4 0x01706E73)))) (fun t => (t.bufDefined 0, t.bufDefined 3))
      = some (some 0x73, some 0x01) ∧
    after (step (nextIs e1State (.host (.read 0x10002 .b2)))) (fun t => t.resp) = some ⟨0x0170, false⟩ := by
  decide +kernel

/-- M5 and M6: an error response changes nothing. -/
theorem test_port_errors :
    after (step (nextIs State.reset (.host (.write 0x10001 .b2 0x1234)))) (fun t => (t.resp.error, t.mem))
      = some (true, []) ∧
    after (step (nextIs State.reset (.host (.write 0x020 .b1 5)))) (fun t => (t.resp.error, t.bufLen))
      = some (true, 0) := by decide +kernel

/-- P4 step 2: SCAN with an empty header completes at once with error 3 and raises `irq`. -/
theorem test_error_completion :
    after (step ({ State.reset with ctrl := { ie := true, adv := false, tail := false } }.withFetchWord 32 1))
      (fun t => (t.statusWord, t.irq)) = some (0x306, true) := by decide +kernel

/-! ### Witnesses: concrete inputs that meet the hypotheses of the obligations, one name per obligation -/

/-- CMD is written next with this word. -/
def writesCmd (s : State) (w : Word) : State := nextIs s (.host (.write 0x018 .b4 w))

theorem witness_DecodingInvertsEncodingOnAllBytes :
    Instr.scan.wf = true ∧ decodeBytes [5, 0, 0, 0] = .ok .validate ∧
    (([6, 0, 0, 0] : List Byte).length = 4 ∧ ∀ i, ([6, 0, 0, 0] : List Byte) ≠ encode i) := by
  refine ⟨rfl, by decide, rfl, fun i => ?_⟩
  cases i <;> decide

theorem witness_StepRunsTheDecodedCommand :
    ((writesCmd s15 1).pending = none ∧ (writesCmd s15 1).schedule = .host (.write 0x018 .b4 1) :: [] ∧
      decodeWord 1 = .ok .scan) ∧
    (State.reset.pending = none ∧ 32 ≤ 32 ∧ decodeTableWord 32 2 = some .xorsum) := by decide +kernel

theorem witness_EngineTurnRunsThePendingCommand :
    busy15.pending = some .scan ∧ busy15.schedule = [] ∧ (nextIs busy15 .engine).pending = some .scan ∧
    (nextIs busy15 .engine).schedule = .engine :: [] := by decide +kernel

theorem witness_EveryOtherWordIsIllegal :
    ¬ ((6 : Word) = 1 ∨ (6 : Word) = 2 ∨ (6 : Word) = 3 ∨ (6 : Word) = 4 ∨ (6 : Word) = 5) ∧
    ¬ ((0 : Word) = 1 ∨ (0 : Word) = 2 ∨ (0 : Word) = 3 ∨ (0 : Word) = 4 ∨ (0 : Word) = 5) ∧
    (writesCmd s15 6).pending = none ∧ (writesCmd busy15 0).pending ≠ none ∧
    (writesCmd busy15 0).schedule = .host (.write 0x018 .b4 0) :: [] := by decide +kernel

/-- The conditions can be decided. -/
def violatesDec (w : Word) (s : State) : (k : Nat) → Decidable (violates w s k)
  | 0 => .isFalse id
  | 1 => inferInstanceAs (Decidable (¬ (w = 1 ∨ w = 2 ∨ w = 3 ∨ w = 4 ∨ w = 5)))
  | 2 => inferInstanceAs (Decidable (s.params.bufMax < s.bufLen.toNat))
  | 3 => inferInstanceAs (Decidable (w = 1 ∧ s.hdrLen.toNat = 0))
  | 4 => inferInstanceAs (Decidable (w = 1 ∧ s.params.hdrMax < s.hdrLen.toNat))
  | 5 => inferInstanceAs (Decidable
      ((w = 3 ∨ ((w = 1 ∨ w = 5) ∧ s.ckcfg.mode = .add)) ∧ (s.ckcfg.size.toNat = 0 ∨ 8 < s.ckcfg.size.toNat)))
  | 6 => inferInstanceAs (Decidable
      ((w = 2 ∨ w = 3 ∨ w = 4 ∨ w = 5) ∧ s.bufLen.toNat < s.argStart.toNat + s.argLen.toNat))
  | 7 => inferInstanceAs (Decidable (w = 4 ∧ 8 < s.argLen.toNat))
  | _ + 8 => .isFalse id

/-- The lowest of the conditions up to a code that holds, if one does. -/
def lowest (w : Word) (s : State) (n : Nat) : Option Nat :=
  (List.range n).find? (fun k => @decide _ (violatesDec w s k))

theorem lowest_spec {w : Word} {s : State} {n k : Nat} (h : lowest w s n = some k) :
    violates w s k ∧ ∀ j, j < k → ¬ violates w s j := by
  unfold lowest at h
  rw [List.find?_range_eq_some] at h
  exact ⟨@of_decide_eq_true _ (violatesDec w s k) h.1, fun j hj hv => by
    have := h.2.2 j hj
    rw [@decide_eq_true _ (violatesDec w s j) hv] at this
    exact absurd this (by decide)⟩

/-- For every code a word and a state at the boundary of its condition whose lowest failing check it is. -/
theorem witness_LowestFailingCheckIsReported :
    (violates 0x101 s15 1 ∧ ∀ j, j < 1 → ¬ violates 0x101 s15 j) ∧
    (violates 2 { s15 with bufLen := 4097 } 2 ∧ ∀ j, j < 2 → ¬ violates 2 { s15 with bufLen := 4097 } j) ∧
    (violates 1 { s15 with hdrLen := 0 } 3 ∧ ∀ j, j < 3 → ¬ violates 1 { s15 with hdrLen := 0 } j) ∧
    (violates 1 { s15 with hdrLen := 17 } 4 ∧ ∀ j, j < 4 → ¬ violates 1 { s15 with hdrLen := 17 } j) ∧
    (violates 3 { s15 with ckcfg := ⟨.xor, .big, 9⟩ } 5 ∧
      ∀ j, j < 5 → ¬ violates 3 { s15 with ckcfg := ⟨.xor, .big, 9⟩ } j) ∧
    (violates 5 { s15 with argLen := 4 } 6 ∧ ∀ j, j < 6 → ¬ violates 5 { s15 with argLen := 4 } j) ∧
    (violates 4 { s15 with bufLen := 9, argLen := 9 } 7 ∧
      ∀ j, j < 7 → ¬ violates 4 { s15 with bufLen := 9, argLen := 9 } j) ∧
    (writesCmd s15 1).pending = none ∧ (writesCmd s15 1).schedule = .host (.write 0x018 .b4 1) :: [] :=
  ⟨lowest_spec (n := 8) (by decide +kernel), lowest_spec (n := 8) (by decide +kernel),
    lowest_spec (n := 8) (by decide +kernel), lowest_spec (n := 8) (by decide +kernel),
    lowest_spec (n := 8) (by decide +kernel), lowest_spec (n := 8) (by decide +kernel),
    lowest_spec (n := 8) (by decide +kernel), rfl, rfl⟩

theorem witness_LegalCommandIsAccepted :
    (writesCmd s15 1).pending = none ∧ (writesCmd s15 1).schedule = .host (.write 0x018 .b4 1) :: [] ∧
    ∀ k, ¬ violates 1 (writesCmd s15 1) k := by
  refine ⟨rfl, rfl, fun k => ?_⟩
  match k with
  | 0 => exact id
  | 1 => exact @of_decide_eq_true _ (@instDecidableNot _ (violatesDec 1 (writesCmd s15 1) 1)) (by decide +kernel)
  | 2 => exact @of_decide_eq_true _ (@instDecidableNot _ (violatesDec 1 (writesCmd s15 1) 2)) (by decide +kernel)
  | 3 => exact @of_decide_eq_true _ (@instDecidableNot _ (violatesDec 1 (writesCmd s15 1) 3)) (by decide +kernel)
  | 4 => exact @of_decide_eq_true _ (@instDecidableNot _ (violatesDec 1 (writesCmd s15 1) 4)) (by decide +kernel)
  | 5 => exact @of_decide_eq_true _ (@instDecidableNot _ (violatesDec 1 (writesCmd s15 1) 5)) (by decide +kernel)
  | 6 => exact @of_decide_eq_true _ (@instDecidableNot _ (violatesDec 1 (writesCmd s15 1) 6)) (by decide +kernel)
  | 7 => exact @of_decide_eq_true _ (@instDecidableNot _ (violatesDec 1 (writesCmd s15 1) 7)) (by decide +kernel)
  | k + 8 => exact id

/-- Each clause at its boundary: `BUF_LEN` 4097, a range one byte too long, and the empty range at the buffer's end. -/
theorem witness_XorsumWritesTheXorOfTheRange :
    (∃ s : State, s.pending = none ∧ s.params.bufMax < s.bufLen.toNat) ∧
    (∃ s : State, s.pending = none ∧ s.bufLen.toNat ≤ s.params.bufMax ∧
      s.bufLen.toNat < s.argStart.toNat + s.argLen.toNat) ∧
    (∃ s : State, s.pending = none ∧ s.bufLen.toNat ≤ s.params.bufMax ∧
      s.argStart.toNat + s.argLen.toNat ≤ s.bufLen.toNat) :=
  ⟨⟨{ s15 with bufLen := 4097 }, by decide +kernel⟩, ⟨rangeState e1 20 1 0, by decide +kernel⟩,
    ⟨rangeState e1 20 0 0, by decide +kernel⟩⟩

/-- SIZE 0, SIZE 9, SIZE 1 with a range too long, and SIZE 8. -/
theorem witness_AddsumWritesTheSumOfTheRange :
    (∃ s : State, s.pending = none ∧ s.params.bufMax < s.bufLen.toNat) ∧
    (∃ s : State, s.pending = none ∧ s.bufLen.toNat ≤ s.params.bufMax ∧ s.ckcfg.size.toNat = 0) ∧
    (∃ s : State, s.pending = none ∧ s.bufLen.toNat ≤ s.params.bufMax ∧ 8 < s.ckcfg.size.toNat) ∧
    (∃ s : State, s.pending = none ∧ s.bufLen.toNat ≤ s.params.bufMax ∧ 1 ≤ s.ckcfg.size.toNat ∧
      s.ckcfg.size.toNat ≤ 8 ∧ s.bufLen.toNat < s.argStart.toNat + s.argLen.toNat) ∧
    (∃ s : State, s.pending = none ∧ s.bufLen.toNat ≤ s.params.bufMax ∧ 1 ≤ s.ckcfg.size.toNat ∧
      s.ckcfg.size.toNat ≤ 8 ∧ s.argStart.toNat + s.argLen.toNat ≤ s.bufLen.toNat) :=
  ⟨⟨{ s15 with bufLen := 4097 }, by decide +kernel⟩, ⟨rangeState e1 0 20 0x00, by decide +kernel⟩,
    ⟨rangeState e1 0 20 0x90, by decide +kernel⟩, ⟨rangeState e1 0 21 0x10, by decide +kernel⟩,
    ⟨rangeState e1 0 20 0x80, by decide +kernel⟩⟩

/-- `ARG_LEN` 9 and 8 within the buffer. -/
theorem witness_B2uWritesTheIntegerOfTheRange :
    (∃ s : State, s.pending = none ∧ s.params.bufMax < s.bufLen.toNat) ∧
    (∃ s : State, s.pending = none ∧ s.bufLen.toNat ≤ s.params.bufMax ∧
      s.bufLen.toNat < s.argStart.toNat + s.argLen.toNat) ∧
    (∃ s : State, s.pending = none ∧ s.bufLen.toNat ≤ s.params.bufMax ∧
      s.argStart.toNat + s.argLen.toNat ≤ s.bufLen.toNat ∧ 8 < s.argLen.toNat) ∧
    (∃ s : State, s.pending = none ∧ s.bufLen.toNat ≤ s.params.bufMax ∧
      s.argStart.toNat + s.argLen.toNat ≤ s.bufLen.toNat ∧ s.argLen.toNat ≤ 8) :=
  ⟨⟨{ s15 with bufLen := 4097 }, by decide +kernel⟩, ⟨rangeState e1 12 9 0, by decide +kernel⟩,
    ⟨rangeState e1 11 9 0, by decide +kernel⟩, ⟨rangeState e1 12 8 0, by decide +kernel⟩⟩

/-- Additive mode with SIZE 9 and with SIZE 8; exclusive-or mode, where SIZE 0 is legal. -/
theorem witness_ValidateWritesTheVerdictOnTheRange :
    (∃ s : State, s.pending = none ∧ s.params.bufMax < s.bufLen.toNat) ∧
    (∃ s : State, s.pending = none ∧ s.bufLen.toNat ≤ s.params.bufMax ∧ ¬ specLegal (specOf s)) ∧
    (∃ s : State, s.pending = none ∧ s.bufLen.toNat ≤ s.params.bufMax ∧ specLegal (specOf s) ∧
      s.bufLen.toNat < s.argStart.toNat + s.argLen.toNat) ∧
    (∃ s : State, s.pending = none ∧ s.bufLen.toNat ≤ s.params.bufMax ∧ specLegal (specOf s) ∧
      s.argStart.toNat + s.argLen.toNat ≤ s.bufLen.toNat) :=
  ⟨⟨{ s15 with bufLen := 4097 }, by decide +kernel⟩,
    ⟨rangeState e1 0 20 0x91, rfl, by decide +kernel, show ¬ (1 ≤ 9 ∧ 9 ≤ 8) by decide⟩,
    ⟨rangeState e1 0 21 0x00, rfl, by decide +kernel, trivial, by decide +kernel⟩,
    ⟨rangeState e1 0 20 0x81, rfl, by decide +kernel, show 1 ≤ 8 ∧ 8 ≤ 8 by decide, by decide +kernel⟩⟩

theorem s15_scanLegal : scanLegal s15 := ⟨by decide +kernel, by decide +kernel, by decide +kernel, trivial⟩

theorem s15_bufferIs : bufferIs s15 [0xAA, 0x01, 0xAB] := by
  unfold bufferIs; decide +kernel

theorem s15_headerIs : headerIs s15 [0xAA] := by
  unfold headerIs; decide +kernel

/-- `HDR_LEN` 0, 17 and 16; a bad SIZE; and a legal SCAN. -/
theorem witness_ScanWritesPacketsAndRemainder :
    (∃ s : State, s.pending = none ∧ s.params.bufMax < s.bufLen.toNat) ∧
    (∃ s : State, s.pending = none ∧ s.bufLen.toNat ≤ s.params.bufMax ∧ s.hdrLen.toNat = 0) ∧
    (∃ s : State, s.pending = none ∧ s.bufLen.toNat ≤ s.params.bufMax ∧ 1 ≤ s.hdrLen.toNat ∧
      s.params.hdrMax < s.hdrLen.toNat) ∧
    (∃ s : State, s.pending = none ∧ s.bufLen.toNat ≤ s.params.bufMax ∧ 1 ≤ s.hdrLen.toNat ∧
      s.hdrLen.toNat ≤ s.params.hdrMax ∧ ¬ specLegal (specOf s)) ∧
    (∃ s : State, s.pending = none ∧ scanLegal s ∧ s.params.bufMax ≤ s.params.pktMax) :=
  ⟨⟨{ s15 with bufLen := 4097 }, by decide +kernel⟩, ⟨{ s15 with hdrLen := 0 }, by decide +kernel⟩,
    ⟨{ s15 with hdrLen := 17 }, by decide +kernel⟩,
    ⟨{ s15 with hdrLen := 16, ckcfg := ⟨.add, .big, 0⟩ }, rfl, by decide +kernel, by decide +kernel, by decide +kernel,
      show ¬ (1 ≤ 0 ∧ 0 ≤ 8) by decide⟩,
    ⟨s15, rfl, s15_scanLegal, by decide +kernel⟩⟩

theorem witness_ScanReportsExactlyTheValidFrames :
    s15.pending = none ∧ scanLegal s15 ∧ bufferIs s15 [0xAA, 0x01, 0xAB] ∧ headerIs s15 [0xAA] ∧
    s15.ctrl.adv = false ∧ FrameAt [0xAA, 0x01, 0xAB] [0xAA] 1 2 (.xor 0) 0 3 := by
  refine ⟨rfl, s15_scanLegal, s15_bufferIs, s15_headerIs, rfl, by decide, by decide, by decide, by decide, by decide, ?_, ?_⟩
  · show 0 + 1 ≤ 3
    decide
  · show ([0xAA, 0x01, 0xAB] : List Byte).getLast? = some (xorOf [0xAA, 0x01])
    decide

theorem witness_ScanPastPacketsReportsTheOuterFrames :
    let s : State := { s15 with ctrl := { ie := false, adv := true, tail := false } }
    s.pending = none ∧ scanLegal s ∧ bufferIs s [0xAA, 0x01, 0xAB] ∧ headerIs s [0xAA] ∧ s.ctrl.adv = true :=
  ⟨rfl, s15_scanLegal, s15_bufferIs, s15_headerIs, rfl⟩

theorem witness_sizes : (1 ≤ 1 ∧ 1 ≤ 8) ∧ (1 ≤ 8 ∧ 8 ≤ 8) := by decide

/-- Sizes 1 and 8. -/
theorem witness_AddChecksumIsTheSumModulo : (1 ≤ 1 ∧ 1 ≤ 8) ∧ (1 ≤ 8 ∧ 8 ≤ 8) := witness_sizes

/-- Vectors V7, V9: a slice too short, an empty covered range, a longer one. -/
theorem witness_XorValidityFollowsItsRule :
    ([0x12, 0x34, 0x01] : List Byte).length < 3 + 1 ∧ 2 + 1 ≤ ([0x12, 0x34, 0x00] : List Byte).length ∧
    2 + 1 = ([0x12, 0x34, 0x00] : List Byte).length ∧ ([] : List Byte) = [] := by decide

/-- Vectors V11, V12, V13: too short for SIZE, for the offset, and an empty covered range. -/
theorem witness_AddValidityFollowsItsRule :
    (1 ≤ 2 ∧ 2 ≤ 8) ∧ ([0x01] : List Byte).length < 2 ∧ ([1, 2, 3] : List Byte).length - 2 < 2 ∧
    (2 ≤ ([1, 0, 0] : List Byte).length ∧ 1 ≤ ([1, 0, 0] : List Byte).length - 2 ∧
      1 = ([1, 0, 0] : List Byte).length - 2) := by decide

theorem witness_ChecksumLawsHold :
    0 + 1 ≤ ([7] : List Byte).length ∧ ([1, 2] : List Byte).Perm [2, 1] ∧ (1 ≤ 8 ∧ 8 ≤ 8) :=
  ⟨by decide, List.Perm.swap _ _ _, by decide⟩

/-- The scan of S15 as a function's input, where each way a pass goes on happens. -/
def i15 : ScanInput := listInput [0xAA, 0x01, 0xAB] [0xAA] 1 2 (.xor 0) false false

theorem witness_ScanTerminatesWithinTheBuffer :
    specLegal i15.spec ∧ 0 ≤ i15.n ∧ i15.pass 0 = .packet 0 3 1 ∧
    (listInput [0xAA, 0x05, 0x01] [0xAA] 1 2 (.xor 0) false false).pass 0 = .skip 1 ∧
    (0, 3) ∈ (findValidPackets i15).1 ∧ ∀ t k, k < i15.n → i15.byte t k = i15.byte t k := by
  refine ⟨trivial, by decide, by decide +kernel, by decide +kernel, by decide +kernel, fun _ _ _ => rfl⟩

theorem witness_EveryReportedPacketIsAValidFrame :
    ([0xAA] : List Byte) ≠ [] ∧ specLegal (.add 8 0 .little) ∧ specLegal (.add 1 0 .big) ∧
    (0, 3) ∈ (findValidPackets i15).1 := by
  unfold specLegal; decide +kernel

/-- Vector S15 (0,1): the remainder kept by TAIL. -/
theorem witness_RemainderHoldsNoValidFrame :
    ([0xAA] : List Byte) ≠ [] ∧ specLegal (.xor 0) ∧
    findValidPackets (listInput [0xAA, 0x01, 0xAB] [0xAA] 1 2 (.xor 0) false true) = ([(0, 3)], (1, 2)) := by
  unfold specLegal; decide +kernel

/-- Vector E8: `73 6E` at the end is the remainder. -/
theorem witness_RescanOfARemainderFindsNothing :
    ([0x73, 0x6E, 0x70] : List Byte) ≠ [] ∧ specLegal (.xor 0) ∧
    findValidPackets (listInput [0x00, 0x73, 0x6E] [0x73, 0x6E, 0x70] 4 6 (.xor 0) false false) = ([], (1, 2)) := by
  unfold specLegal; decide +kernel

/-- Vector S8. -/
theorem witness_TruncatedPacketIsLost :
    ([0xAA] : List Byte) ≠ [] ∧ ([0xAA] : List Byte).length ≤ ([0xAA, 5, 1, 2] : List Byte).length ∧
    ([0xAA, 5, 1, 2] : List Byte).take 1 = [0xAA] ∧ 1 < ([0xAA, 5, 1, 2] : List Byte).length ∧
    ([0xAA, 5, 1, 2] : List Byte).length < (([0xAA, 5, 1, 2] : List Byte).getD 1 0).toNat + 2 ∧
    (∀ k, k < 4 → 0 < k → ([0xAA, 5, 1, 2] : List Byte)[k]? ≠ ([0xAA] : List Byte).head?) := by decide

/-- The smallest and the largest build. -/
theorem witness_ResetMeetsTheInvariant :
    ({ bufMax := 1, hdrMax := 1, pktMax := 1, pfsBase := 0 } : Params).legal = true ∧
    ({ bufMax := 65536, hdrMax := 256, pktMax := 4096, pfsBase := 0 } : Params).legal = true := by decide

/-- A running command in a consistent state, about to complete. -/
theorem witness_EveryStepKeepsTheInvariant : busy15.Inv ∧ ∃ t, step busy15 = .next t := by
  refine ⟨?_, _, rfl⟩
  have hc : checkCommand .scan busy15 = .noError := by decide +kernel
  refine ⟨by decide +kernel, by decide +kernel, ?_, by decide +kernel, by decide +kernel⟩
  intro i hi
  have : i = .scan := by simpa [busy15, acceptedAs, eq_comm] using hi
  exact this ▸ hc

theorem witness_OnlyAccessDuringResetStopsTheMachine :
    step (nextIs s15 (.hostInReset (.read 0 .b4))) = .fault .accessDuringReset := rfl

/-- A host access, the engine's turn, a reset. -/
theorem witness_CommandCannotBeCancelled :
    busy15.pending = some .scan ∧ (∃ t, step (nextIs busy15 (.host (.read 0x014 .b4))) = .next t) ∧
    (∃ t, step busy15 = .next t) ∧ (∃ t, step (nextIs busy15 .reset) = .next t) := ⟨rfl, ⟨_, rfl⟩, ⟨_, rfl⟩, _, rfl⟩

/-- One access per clause; 0x3C and 0x1FFFF are the last configuration and window offsets. -/
theorem witness_WritesWhileBusyFollowTheTable :
    (nextIs busy15 (.host (.write 0x018 .b4 1))).busy = true ∧ accessBad 0x10001 .b2 ∧ accessBad 0x020 .b1 ∧
    ¬ accessBad 0x018 .b4 ∧ (configOffset (0x020 : Addr).toNat ∧ ¬ accessBad 0x020 .b4) ∧
    (configOffset (0x03C : Addr).toNat ∧ ¬ accessBad 0x03C .b4) ∧ (inWindow (0x1FFFF : Addr).toNat ∧ ¬ accessBad 0x1FFFF .b1) ∧
    (inWindow (0x1FE : Addr).toNat ∧ ¬ accessBad 0x1FE .b2) ∧ ¬ accessBad 0x010 .b4 ∧ ¬ accessBad 0x014 .b4 ∧
    (¬ ((0x040 : Addr) = 0x018 ∨ configOffset (0x040 : Addr).toNat ∨ inWindow (0x040 : Addr).toNat ∨
        (0x040 : Addr) = 0x010 ∨ (0x040 : Addr) = 0x014) ∧ ¬ accessBad 0x040 .b4) := by
  unfold accessBad configOffset inWindow
  refine ⟨?_, ?_, ?_, ?_, ⟨?_, ?_⟩, ⟨?_, ?_⟩, ⟨?_, ?_⟩, ⟨?_, ?_⟩, ?_, ?_, ?_, ?_⟩ <;> decide +kernel

theorem witness_RunningCommandCompletes :
    let s : State := { busy15 with schedule := [.host (.read 0x014 .b4), .host (.write 0x020 .b4 5)] }
    s.pending = some .scan ∧ ∀ e ∈ s.schedule, ∃ a, e = .host a := by
  refine ⟨rfl, fun e he => ?_⟩
  simp only [List.mem_cons, List.not_mem_nil, or_false] at he
  rcases he with rfl | rfl
  · exact ⟨_, rfl⟩
  · exact ⟨_, rfl⟩

/-- Two states that differ in the results, the report and the draw number. -/
theorem witness_ResultsDependOnTheInputsAlone :
    let s' : State := { busy15 with resLo := 7, draws := 9, status := { busy15.status with wbusy := true } }
    busy15.pending = some .scan ∧ s'.pending = some .scan ∧ checkCommand .scan busy15 = .noError ∧
    s'.params = busy15.params ∧ sameConfig busy15 s' ∧ s'.latAdv = busy15.latAdv ∧ s'.latTail = busy15.latTail ∧
    bufferIs busy15 [0xAA, 0x01, 0xAB] ∧ bufferIs s' [0xAA, 0x01, 0xAB] ∧
    (∀ k, k < busy15.hdrLen.toNat → s'.hdrByte k = busy15.hdrByte k) ∧
    (∃ t, exec .scan busy15 = .next t) ∧ (∃ t, exec .scan s' = .next t) := by
  refine ⟨rfl, rfl, by decide +kernel, rfl, ⟨rfl, rfl, rfl, rfl, rfl, rfl, rfl, rfl⟩, rfl, rfl, ?_, ?_,
    fun _ _ => rfl, ⟨_, rfl⟩, _, rfl⟩
  · unfold bufferIs; decide +kernel
  · unfold bufferIs; decide +kernel

/-- The accesses of vector W1 come first. -/
theorem witness_ResultsDoNotDependOnWhenTheEngineRuns :
    busy15.pending = some .scan ∧ checkCommand .scan busy15 = .noError ∧ bufferIs busy15 [0xAA, 0x01, 0xAB] ∧
    (∃ t, Host.Core.run core 1 { busy15 with schedule := [.engine] } = .next t) ∧
    (∃ t, Host.Core.run core ([Access.write 0x020 .b4 5].length + 1)
      { busy15 with schedule := [Access.write 0x020 .b4 5].map .host ++ [.engine] } = .next t) := by
  refine ⟨rfl, by decide +kernel, ?_, ⟨_, rfl⟩, _, rfl⟩
  unfold bufferIs; decide +kernel

/-- A reported error, WBUSY and the interrupt, with IE set. -/
def reported : State :=
  { s15 with
    ctrl := { ie := true, adv := false, tail := false }
    status := { done := true, err := true, wbusy := true, errCode := .emptyHeader } }

/-- A step that keeps the error, and the three that end it. -/
theorem witness_ErrorStaysReported :
    reported.status.err = true ∧ (∃ t, step reported = .next t) ∧
    (∃ t, step (nextIs reported (.host (.write 0x014 .b4 4))) = .next t) ∧
    (∃ t, step (writesCmd reported 2) = .next t) ∧ (∃ t, step (nextIs reported .reset) = .next t) :=
  ⟨rfl, ⟨_, rfl⟩, ⟨_, rfl⟩, ⟨_, rfl⟩, _, rfl⟩

/-- DONE alone cleared while ERR is 1. -/
theorem witness_ErrWithoutDoneComesFromAClear :
    (reported.status.err = true → reported.status.done = true) ∧
    after (step (nextIs reported (.host (.write 0x014 .b4 2)))) (fun t => (t.status.err, t.status.done))
      = some (true, false) := by decide +kernel

/-- WBUSY set by an ignored write, and cleared. -/
theorem witness_WbusyRecordsIgnoredWrites :
    (busy15.status.wbusy = false ∧
      after (step (nextIs busy15 (.host (.write 0x020 .b4 5)))) (fun t => t.status.wbusy) = some true) ∧
    (reported.status.wbusy = true ∧
      after (step (nextIs reported (.host (.write 0x014 .b4 8)))) (fun t => t.status.wbusy) = some false) := by
  decide +kernel

/-- `irq` raised by a completion and by setting IE, and lowered by clearing DONE; with IE 0, DONE set by a completion and
by an error completion, and cleared by a STATUS write and by the next command write. -/
theorem witness_IrqFollowsDoneAndEnable :
    (({ busy15 with ctrl := reported.ctrl } : State).irq = false ∧
      after (step { busy15 with ctrl := reported.ctrl }) (fun t => t.irq) = some true) ∧
    after (step (nextIs { reported with ctrl := s15.ctrl } (.host (.write 0x010 .b4 1)))) (fun t => t.irq) = some true ∧
    (reported.irq = true ∧
      after (step (nextIs reported (.host (.write 0x014 .b4 2)))) (fun t => t.irq) = some false) ∧
    (busy15.ctrl.ie = false ∧ busy15.status.done = false ∧
      after (step busy15) (fun t => (t.status.done, t.irq)) = some (true, false) ∧
      after (step (writesCmd s15 6)) (fun t => (t.status.done, t.status.err)) = some (true, true)) ∧
    (let u : State := { reported with ctrl := s15.ctrl };
      u.status.done = true ∧
      after (step (nextIs u (.host (.write 0x014 .b4 2)))) (fun t => t.status.done) = some false ∧
      after (step (writesCmd u 2)) (fun t => t.status.done) = some false) := by decide +kernel

/-- A configuration write, a window write, a CTRL write, and a completion, none of them a reset. -/
theorem witness_StorageKeepsItsValues :
    ¬ nextResets (nextIs s15 (.host (.write 0x020 .b4 9))) ∧
    after (step (nextIs s15 (.host (.write 0x020 .b4 9)))) (fun t => t.bufLen) = some 9 ∧
    after (step (nextIs s15 (.host (.write 0x10000 .b1 9)))) (fun t => t.bufDefined 0) = some (some 9) ∧
    after (step (nextIs s15 (.host (.write 0x010 .b4 7)))) (fun t => t.ctrl.tail) = some true ∧
    after (step busy15) (fun t => t.pktCount) = some 1 := by
  refine ⟨?_, by decide +kernel, by decide +kernel, by decide +kernel, by decide +kernel⟩
  rintro ⟨rest, h⟩
  simp [nextIs] at h

/-- Acceptance, completion, and another command while one runs. -/
theorem witness_CommandsChangeOnlyReportAndResults :
    s15.pending = none ∧ busy15.pending = some .scan ∧ (∃ j, busy15.pending = some j ∧ j ≠ .b2u) ∧
    (Instr.scan ≠ Instr.scan ∨ s15.pending ≠ some .scan) := by
  refine ⟨rfl, rfl, ⟨.scan, rfl, by decide⟩, .inr (by decide)⟩

theorem witness_ResetGivesTheResetValues : (nextIs busy15 .reset).schedule = .reset :: [] := rfl

theorem witness_BadAccessGetsAnErrorAndChangesNothing :
    (nextIs s15 (.host (.read 0x8000 .b2))).schedule = .host (.read 0x8000 .b2) :: [] ∧ accessBad 0x8000 .b2 ∧
    (nextIs s15 (.host (.write 0x1FFFE .b4 0))).schedule = .host (.write 0x1FFFE .b4 0) :: [] ∧
    accessBad 0x1FFFE .b4 ∧ ¬ accessBad 0x0FC .b4 := by
  unfold accessBad; decide +kernel

theorem witness_ReadsHaveNoSideEffect :
    (nextIs busy15 (.host (.read 0x050 .b4))).schedule = .host (.read 0x050 .b4) :: [] := rfl

/-- The last held byte of each window and the first beyond. -/
theorem witness_WindowReadReturnsTheStoredBytes :
    (nextIs s15 (.host (.read 0x10FFF .b1))).schedule = .host (.read 0x10FFF .b1) :: [] ∧ ¬ accessBad 0x10FFF .b1 ∧
    inWindow (0x10FFF : Addr).toNat ∧ inWindow (0x10000 : Addr).toNat ∧ Memory.read s15.mem 0x10000 = some 0xAA ∧
    holdsByte s15.params 0x10FFF ∧ ¬ holdsByte s15.params 0x11000 ∧ holdsByte s15.params 0x10F ∧
    ¬ holdsByte s15.params 0x110 := by
  unfold accessBad inWindow holdsByte; decide +kernel

theorem witness_WindowWriteStoresTheBytes :
    Memory.wf s15.mem = true ∧ s15.busy = false ∧ ¬ accessBad 0x10FFC .b4 ∧ inWindow (0x10FFC : Addr).toNat ∧
    holdsByte s15.params (0x10FFC + 3) ∧ ¬ accessBad 0x10E .b2 ∧ inWindow (0x10E : Addr).toNat := by
  unfold accessBad inWindow holdsByte; decide +kernel

theorem witness_ConfigurationReadsBackAsWritten :
    let e : List Event := [.host (.write 0x030 .b4 0xFFFFFFFF), .host (.read 0x030 .b4)]
    ({ s15 with schedule := e }).busy = false ∧ ({ busy15 with schedule := e }).busy = true ∧
    configOffset (0x030 : Addr).toNat ∧ configOffset (0x020 : Addr).toNat ∧ configOffset (0x03C : Addr).toNat ∧
    (nextIs busy15 (.host (.write 0x010 .b4 7))).schedule = .host (.write 0x010 .b4 7) :: [] := by
  unfold configOffset; decide +kernel

theorem witness_StatusBitsAreWriteOneToClear :
    ({ reported with schedule := [.host (.write 0x014 .b4 4), .host (.read 0x014 .b4)] } : State).schedule =
      .host (.write 0x014 .b4 4) :: .host (.read 0x014 .b4) :: [] := rfl

/-- The first and the last reserved offsets, and the last constant. -/
theorem witness_ConstantAndReservedRegisters :
    (0x000 : Addr).toNat % 4 = 0 ∧ ((0x0FC : Addr).toNat % 4 = 0 ∧ (0x0FC : Addr).toNat < 0x100) ∧
    0x058 ≤ (0x058 : Addr).toNat ∧ (0x00C : Addr).toNat ≤ 0x00C ∧
    (nextIs s15 (.host (.write 0x058 .b4 1))).schedule = .host (.write 0x058 .b4 1) :: [] ∧
    (writesCmd s15 1).schedule = .host (.write 0x018 .b4 1) :: [] ∧ (0x018 : Addr).toNat < 0x100 ∧
    (nextIs busy15 (.host (.read 0x000 .b4))).schedule = .host (.read 0x000 .b4) :: [] := by decide +kernel

/-- Entries 0 and 4095, and the first beyond a table of two. -/
theorem witness_DescWindowReadsDescriptors :
    let s : State := { s15 with params := { s15.params with pktMax := 2 }, desc := [(1, ⟨5, 6⟩)] }
    (0x8000 : Addr).toNat = 0x8000 + 8 * 0 ∧ (0xFFFC : Addr).toNat = 0x8000 + 8 * 4095 + 4 ∧ 4095 < 4096 ∧
    s.busy = false ∧ (1 < s.params.pktMax ∧ cellsGet s.desc 1 = some ⟨5, 6⟩) ∧ s.params.pktMax ≤ 2 ∧
    (nextIs s (.host (.read 0x800C .b4))).schedule = .host (.read 0x800C .b4) :: [] := by decide +kernel

theorem witness_RegistersReadTheirStoredValues :
    (nextIs s15 (.host (.read 0x050 .b4))).schedule = .host (.read 0x050 .b4) :: [] ∧ s15.busy = false ∧
    (nextIs busy15 (.host (.read 0x020 .b4))).schedule = .host (.read 0x020 .b4) :: [] ∧
    (nextIs busy15 (.host (.read 0x030 .b4))).schedule = .host (.read 0x030 .b4) :: [] ∧
    (nextIs busy15 (.host (.read 0x010 .b4))).schedule = .host (.read 0x010 .b4) :: [] := by decide +kernel

/-- A busy block; a legal word; and a word with the condition of code 1 and one with that of code 7. -/
theorem witness_CommandWriteFollowsItsProcedure :
    ((writesCmd busy15 1).schedule = .host (.write 0x018 .b4 1) :: [] ∧ (writesCmd busy15 1).pending ≠ none) ∧
    ((writesCmd s15 1).pending = none ∧ (writesCmd s15 1).schedule = .host (.write 0x018 .b4 1) :: [] ∧
      ∀ k, ¬ violates 1 (writesCmd s15 1) k) ∧
    (violates 0x101 s15 1 ∧ ∀ j, j < 1 → ¬ violates 0x101 s15 j) ∧
    (violates 4 { s15 with bufLen := 9, argLen := 9 } 7 ∧
      ∀ j, j < 7 → ¬ violates 4 { s15 with bufLen := 9, argLen := 9 } j) :=
  ⟨⟨rfl, by decide⟩, witness_LegalCommandIsAccepted, lowest_spec (n := 8) (by decide +kernel),
    lowest_spec (n := 8) (by decide +kernel)⟩

/-- The first and the last reserved offset, read and written, and the first and the last result register. -/
theorem witness_ReservedRegionAndResultsIgnoreWrites :
    (0x200 ≤ (0x200 : Addr).toNat ∧ ¬ accessBad 0x200 .b4 ∧
      (nextIs s15 (.host (.read 0x200 .b4))).schedule = .host (.read 0x200 .b4) :: []) ∧
    ((0x7FFF : Addr).toNat < 0x8000 ∧ ¬ accessBad 0x7FFF .b1 ∧
      (nextIs s15 (.host (.write 0x7FFF .b1 9))).schedule = .host (.write 0x7FFF .b1 9) :: []) ∧
    (0x040 ≤ (0x040 : Addr).toNat ∧ (0x040 : Addr).toNat % 4 = 0 ∧
      (nextIs s15 (.host (.write 0x040 .b4 9))).schedule = .host (.write 0x040 .b4 9) :: []) ∧
    ((0x054 : Addr).toNat ≤ 0x054 ∧ (0x054 : Addr).toNat % 4 = 0) := by
  unfold accessBad; decide +kernel

end Sys2Proof.Tests
end

section
/-! SUPPORT. The steps that a reset and word accesses to the register range take, the layout of STATUS, and the state
after a reset. -/

namespace Sys2Proof.Machine

/-! ### One event of the schedule -/

theorem step_of_schedule {s : State} {e : Event} {rest : List Event} (h : s.schedule = e :: rest) :
    step s = runEvent e { s with schedule := rest } := by
  simp [step, State.popEvent, h]

theorem step_reset {s : State} {rest : List Event} (h : s.schedule = .reset :: rest) :
    step s = .next ({ s with schedule := rest } : State).applyReset :=
  step_of_schedule h

/-! ### Word accesses to the register range -/

theorem accessOk_word {x : Nat} (h : x % 4 = 0) : accessOk x .b4 = true := by
  simp [accessOk, Size.bytes, h]

theorem regionOf_registers {x : Nat} (h : x < 0x100) : regionOf x = .registers := by
  simp [regionOf, h]

theorem readData_registers (s : State) {x : Nat} (n : Size) (h : x < 0x100) :
    s.readData x n = (regAt x).elim 0 s.readReg := by
  cases hr : regAt x <;> simp [State.readData, regionOf_registers h, hr]

theorem writeData_registers (s : State) {x : Nat} (n : Size) (v : Word) (h : x < 0x100) :
    writeData x n v s = (regAt x).elim (.next s) (fun r => writeReg r v s) := by
  cases hr : regAt x <;> simp [writeData, regionOf_registers h, hr]

@[simp] theorem readReg_schedule (s : State) (rest : List Event) :
    ({ s with schedule := rest } : State).readReg = s.readReg := by
  funext r
  cases r <;> rfl

/-- A word read of the register range answers the register's value, or 0 at a reserved offset (20_memory.md R75,
10_state.md R42). -/
theorem step_read_register {s : State} {x : Addr} {rest : List Event} (h : s.schedule = .host (.read x .b4) :: rest)
    (h4 : x.toNat % 4 = 0) (hx : x.toNat < 0x100) :
    step s = .next { s with
      schedule := rest, resp := { data := (regAt x.toNat).elim 0 s.readReg, error := false }
      draws := s.draws + 1 } := by
  simp [step_of_schedule h, runEvent, hostAccess, hostRead, accessOk_word h4, readData_registers _ _ hx, State.respond]

/-- A word write to the register range is answered without error and reaches the register at its offset, if there is
one. -/
theorem step_write_register {s : State} {x : Addr} {v : Word} {rest : List Event}
    (h : s.schedule = .host (.write x .b4 v) :: rest) (h4 : x.toNat % 4 = 0) (hx : x.toNat < 0x100) :
    step s =
      (regAt x.toNat).elim (.next { s with schedule := rest, resp := { data := 0, error := false } })
        (fun r => writeReg r v { s with schedule := rest, resp := { data := 0, error := false } }) := by
  simp [step_of_schedule h, runEvent, hostAccess, hostWrite, accessOk_word h4, writeData_registers _ _ _ hx,
    State.respond]

/-! ### Constant and reserved registers -/

/-- The registers that hold a constant of the build (10_state.md R22, R23). -/
def Reg.isConstant : Reg → Bool
  | .id | .capBuf | .capHdr | .capPkt => true
  | _ => false

theorem regAt_constant {x : Nat} (h4 : x % 4 = 0) (hx : x ≤ 0x00C) : ∃ r, regAt x = some r ∧ r.isConstant = true := by
  obtain rfl | rfl | rfl | rfl : x = 0x000 ∨ x = 0x004 ∨ x = 0x008 ∨ x = 0x00C := by omega
  all_goals exact ⟨_, rfl, rfl⟩

theorem regAt_reserved {x : Nat} (hx : x = 0x01C ∨ 0x058 ≤ x) : regAt x = none := by
  unfold regAt
  split
  case h_22 => rfl
  all_goals omega

theorem writeReg_constant {r : Reg} (h : r.isConstant = true) (v : Word) (s : State) : writeReg r v s = .next s := by
  cases r <;> simp [Reg.isConstant] at h <;> rfl

/-- A write to a constant register or to a reserved offset changes nothing (10_state.md R22, R23, R42). -/
theorem register_ignores_write {x : Nat} (h4 : x % 4 = 0) (hx : x ≤ 0x00C ∨ x = 0x01C ∨ 0x058 ≤ x) (v : Word)
    (s : State) : (regAt x).elim (.next s) (fun r => writeReg r v s) = .next s := by
  obtain hconst | hres := hx
  · obtain ⟨r, hat, hr⟩ := regAt_constant h4 hconst
    simp [hat, writeReg_constant hr]
  · simp [regAt_reserved hres]

/-! ### The word of STATUS -/

theorem ErrCode.toNat_le (c : ErrCode) : c.toNat ≤ 7 := by cases c <;> decide

/-- No field of STATUS carries into the next one. -/
theorem statusWord_toNat (s : State) :
    s.statusWord.toNat = s.busy.toNat + 2 * s.status.done.toNat + 4 * s.status.err.toNat + 8 * s.status.wbusy.toNat
      + 256 * s.status.errCode.toNat := by
  have hb := s.busy.toNat_lt
  have hd := s.status.done.toNat_lt
  have he := s.status.err.toNat_lt
  have hw := s.status.wbusy.toNat_lt
  have hc := s.status.errCode.toNat_le
  rw [State.statusWord, BitVec.toNat_ofNat, Nat.mod_eq_of_lt (by omega)]

theorem getLsbD_eq_of_toNat {w : Word} {i : Nat} {b : Bool} (h : w.toNat / 2 ^ i % 2 = b.toNat) :
    w.getLsbD i = b := by
  rw [BitVec.getLsbD, Nat.testBit_eq_decide_div_mod_eq, h]
  cases b <;> rfl

theorem extractLsb'_toNat_eq {w : Word} {i n k : Nat} (h : w.toNat / 2 ^ i % 2 ^ n = k) :
    (w.extractLsb' i n).toNat = k := by
  rw [BitVec.extractLsb'_toNat, Nat.shiftRight_eq_div_pow, h]

/-- The layout of STATUS (10_state.md R25). -/
theorem statusWord_layout (s : State) :
    s.statusWord.getLsbD 0 = s.busy ∧ s.statusWord.getLsbD 1 = s.status.done ∧
    s.statusWord.getLsbD 2 = s.status.err ∧ s.statusWord.getLsbD 3 = s.status.wbusy ∧
    (s.statusWord.extractLsb' 8 4).toNat = s.status.errCode.toNat ∧
    s.statusWord.extractLsb' 4 4 = 0 ∧ s.statusWord.extractLsb' 12 20 = 0 := by
  have hword := statusWord_toNat s
  have hb := s.busy.toNat_lt
  have hd := s.status.done.toNat_lt
  have he := s.status.err.toNat_lt
  have hw := s.status.wbusy.toNat_lt
  have hc := s.status.errCode.toNat_le
  refine ⟨getLsbD_eq_of_toNat ?_, getLsbD_eq_of_toNat ?_, getLsbD_eq_of_toNat ?_, getLsbD_eq_of_toNat ?_,
    extractLsb'_toNat_eq ?_, BitVec.eq_of_toNat_eq (extractLsb'_toNat_eq (k := 0) ?_),
    BitVec.eq_of_toNat_eq (extractLsb'_toNat_eq (k := 0) ?_)⟩
  all_goals omega

/-! ### The state after a reset -/

theorem Memory.unlisted_getD_zero (x : Nat) : (Memory.unlisted x).getD 0 = 0 := by
  unfold Memory.unlisted
  split <;> rfl

theorem Memory.unlisted_buf (k : Nat) : Memory.unlisted (bufBase + k) = none :=
  if_neg (by simp only [hdrBase, bufBase]; omega)

/-- After a reset every register but the constants reads 0 (10_state.md R48). -/
theorem readReg_applyReset {r : Reg} (h : r.isConstant = false) (s : State) : s.applyReset.readReg r = 0 := by
  cases r <;> simp [Reg.isConstant] at h <;> rfl

theorem hdrByte_applyReset (s : State) (k : Nat) : s.applyReset.hdrByte k = 0 := by
  unfold State.hdrByte
  split
  · exact Memory.unlisted_getD_zero _
  · rfl

theorem bufDefined_applyReset (s : State) (k : Nat) : s.applyReset.bufDefined k = none := Memory.unlisted_buf k

end Sys2Proof.Machine
end

section
/-! SUPPORT. The proofs of the statements about the registers and the reset: O41, O47, O48. -/

namespace Sys2Proof.Claims

open Sys2Proof.Machine

/-- Settles O47: the write clears through `Status.clearedBy`, and the read that follows shows the word of the
cleared report, whose layout is `statusWord_layout`. -/
theorem statusBitsAreWriteOneToClear : Obligations.StatusBitsAreWriteOneToClear := by
  unfold Obligations.StatusBitsAreWriteOneToClear
  intro s v rest h
  have hwrite := step_write_register h rfl (by decide)
  exact ⟨_, _, hwrite, step_read_register rfl rfl (by decide), rfl, rfl, rfl, rfl, rfl, statusWord_layout _⟩

/-- Settles O41: the step is `State.applyReset`, whatever was pending. -/
theorem resetGivesTheResetValues : Obligations.ResetGivesTheResetValues := by
  unfold Obligations.ResetGivesTheResetValues
  intro s rest h
  refine ⟨_, step_reset h, rfl, rfl, rfl, rfl, rfl, ?_, ?_, ?_, ?_, ?_, ?_, ?_, ?_, ?_, ?_, ?_, ?_, ?_, ?_, ?_, ?_,
    hdrByte_applyReset _, bufDefined_applyReset _, fun _ => rfl, rfl, rfl, rfl, rfl⟩
  all_goals exact readReg_applyReset rfl _

/-- Settles O48: a constant register answers its constant and ignores writes, a reserved offset has no register. -/
theorem constantAndReservedRegisters : Obligations.ConstantAndReservedRegisters := by
  unfold Obligations.ConstantAndReservedRegisters
  intro s rest x h4 hx
  refine ⟨fun h => ⟨_, step_read_register h h4 hx, ?_, ?_, ?_, ?_, ?_⟩, fun v h hx' => ?_, fun v h hcmd => ?_⟩
  iterate 4 · rintro rfl; rfl
  · rintro (rfl | rfl | hres)
    · rfl
    · rfl
    · simp [regAt_reserved (.inr hres)]
  · have hignored : x.toNat ≤ 0x00C ∨ x.toNat = 0x01C ∨ 0x058 ≤ x.toNat := by bv_omega
    exact ⟨_, (step_write_register h h4 hx).trans (register_ignores_write h4 hignored v _), rfl, rfl⟩
  · subst hcmd
    exact ⟨_, rfl, step_write_register h h4 hx⟩

end Sys2Proof.Claims
end

section
/-! SUPPORT. Which accesses get an error response, and what every host access answers. -/

namespace Sys2Proof.Machine

open Sys2Proof.Claims

/-! ### The access rules -/

theorem isWord_regionOf_iff (x : Nat) :
    (regionOf x).isWord = true ↔ x < 0x100 ∨ (0x8000 ≤ x ∧ x < 0x10000) := by
  unfold regionOf
  split_ifs <;> simp only [Region.isWord, true_iff, Bool.false_eq_true, false_iff] <;> omega

theorem Size.bytes_eq_four_iff (n : Size) : n.bytes = 4 ↔ n = .b4 := by
  cases n <;> decide

theorem accessOk_eq_false_iff (x : Addr) (n : Size) : accessOk x.toNat n = false ↔ accessBad x n := by
  simp [accessOk, accessBad, ← isWord_regionOf_iff, Size.bytes_eq_four_iff, imp_iff_not_or]

/-! ### The response of a host access -/

@[simp] theorem acceptCommand_resp (i : Instr) (s : State) : (acceptCommand i s).resp = s.resp := by
  unfold acceptCommand
  split <;> rfl

/-- The answer to a write without error was given before its effect. -/
theorem WriteEffect.resp_eq {s t : State} (h : WriteEffect s t) : t.resp = s.resp := by
  cases h with
  | nothing => rfl
  | ignored => exact State.ignoreWrite_resp s
  | ctrl v => exact State.writeCtrl_resp s v
  | status v => exact State.writeStatus_resp s v
  | config _ r v => exact State.storeConfig_resp s r v
  | window _ x bs => exact State.writeBytes_resp s x bs
  | command _ i => exact acceptCommand_resp i s
  | illegal => rfl

theorem hostRead_of_not_accessOk {x : Addr} {n : Size} (h : accessOk x.toNat n = false) (s : State) :
    hostRead x n s = s.respond 0 true := by
  simp [hostRead, h]

theorem hostRead_of_accessOk {x : Addr} {n : Size} (h : accessOk x.toNat n = true) (s : State) :
    hostRead x n s = { s.respond (s.readData x.toNat n) false with draws := s.draws + 1 } := by
  simp [hostRead, h]

theorem hostWrite_of_not_accessOk {x : Addr} {n : Size} (h : accessOk x.toNat n = false) (v : Word) (s : State) :
    hostWrite x n v s = .next (s.respond 0 true) := by
  simp [hostWrite, h]

theorem hostWrite_of_accessOk {x : Addr} {n : Size} (h : accessOk x.toNat n = true) (v : Word) (s : State) :
    hostWrite x n v s = writeData x.toNat n v (s.respond 0 false) := by
  simp [hostWrite, h]

/-- Of an access that fails `accessOk` nothing but the error response remains (20_memory.md R73). -/
theorem hostAccess_of_not_accessOk {a : Access} {x : Addr} {n : Size} {v : Word}
    (ha : a = .read x n ∨ a = .write x n v) (h : accessOk x.toNat n = false) (s : State) :
    hostAccess a s = .next (s.respond 0 true) := by
  obtain rfl | rfl := ha
  · exact congrArg Host.Outcome.next (hostRead_of_not_accessOk h s)
  · exact hostWrite_of_not_accessOk h v s

/-- Whatever a write does, it leaves the response as `hostWrite` set it. -/
theorem hostAccess_of_accessOk {a : Access} {x : Addr} {n : Size} {v : Word}
    (ha : a = .read x n ∨ a = .write x n v) (h : accessOk x.toNat n = true) (s : State) :
    ∃ t, hostAccess a s = .next t ∧ t.resp.error = false := by
  obtain rfl | rfl := ha
  · exact ⟨_, congrArg Host.Outcome.next (hostRead_of_accessOk h s), rfl⟩
  · obtain ⟨t, hwrite, heffect⟩ := writeData_effect x.toNat n v (s.respond 0 false)
    exact ⟨t, (hostWrite_of_accessOk h v s).trans hwrite, congrArg Response.error heffect.resp_eq⟩

end Sys2Proof.Machine
end

section
/-! SUPPORT. The proof of the statement about the error response: O42. -/

namespace Sys2Proof.Claims

open Sys2Proof.Machine

/-- Settles O42: the model's `accessOk` is the negation of `accessBad`, and each side fixes the access's answer. -/
theorem badAccessGetsAnErrorAndChangesNothing : Obligations.BadAccessGetsAnErrorAndChangesNothing := by
  unfold Obligations.BadAccessGetsAnErrorAndChangesNothing
  intro s rest x n v h
  obtain ⟨a, ha, hs⟩ : ∃ a, (a = .read x n ∨ a = .write x n v) ∧ s.schedule = .host a :: rest :=
    h.elim (fun hr => ⟨_, .inl rfl, hr⟩) (fun hw => ⟨_, .inr rfl, hw⟩)
  rw [step_of_schedule hs]
  cases hok : accessOk x.toNat n with
  | false =>
    have hbad : accessBad x n := (accessOk_eq_false_iff x n).1 hok
    exact ⟨_, hostAccess_of_not_accessOk ha hok _, iff_of_true rfl hbad, fun _ => rfl⟩
  | true =>
    have hgood : ¬ accessBad x n := by simp [← accessOk_eq_false_iff, hok]
    obtain ⟨t, hstep, hresp⟩ := hostAccess_of_accessOk ha hok { s with schedule := rest }
    exact ⟨t, hstep, iff_of_false (by simp [hresp]) hgood, fun hb => absurd hb hgood⟩

end Sys2Proof.Claims
end

section
/-! SUPPORT. The words that the decoder refuses, and the CMD writes that run no command. -/

namespace Sys2Proof

/-! ### The decoder -/

/-- A row that masks no bit selects exactly its pattern (30_encoding.md R101). -/
theorem OpcodeRow.matches_of_full_mask (w p : Word) (i : Instr) :
    OpcodeRow.matches { mask := 0xFFFFFFFF#32, pattern := p, instr := i } w = (w == p) :=
  congrArg (· == p) (BitVec.and_allOnes (x := w))

/-- A word is refused exactly when no row of the opcode map selects it (30_encoding.md R102). -/
theorem decodeWord_eq_error_iff (w : Word) :
    decodeWord w = .error .illegalCmd ↔ ∀ r ∈ opcodeTable, ¬ r.matches w = true := by
  rw [← List.find?_eq_none, decodeWord]
  cases opcodeTable.find? (fun r => r.matches w) <;> simp

theorem decodeWord_eq_error_iff_not_command (w : Word) :
    decodeWord w = .error .illegalCmd ↔ ¬ (w = 1 ∨ w = 2 ∨ w = 3 ∨ w = 4 ∨ w = 5) := by
  simp [decodeWord_eq_error_iff, opcodeTable, OpcodeRow.matches_of_full_mask]

end Sys2Proof

namespace Sys2Proof.Machine

/-! ### CMD writes that run no command -/

theorem cmdWrite_of_busy {s : State} (h : s.busy = true) (w : Word) : cmdWrite w s = .next s.ignoreWrite := by
  simp [cmdWrite, h]

theorem cmdWrite_of_illegal {s : State} {w : Word} {e : Reject} (h : s.busy = false) (hw : decodeWord w = .error e) :
    cmdWrite w s = .next (s.clearReport.raiseError .illegalCmd) := by
  simp [cmdWrite, h, hw]

/-- A word write to CMD is answered without error before its command procedure runs. -/
theorem step_write_cmd {s : State} {w : Word} {rest : List Event}
    (h : s.schedule = .host (.write 0x018 .b4 w) :: rest) :
    step s = cmdWrite w { s with schedule := rest, resp := { data := 0, error := false } } :=
  step_write_register h rfl (by decide)

end Sys2Proof.Machine
end

section
/-! SUPPORT. The proof of the statement about the words that are no command: O6. -/

namespace Sys2Proof.Claims

open Sys2Proof.Machine

/-- Settles O6: the decoder refuses the word, so the write to CMD runs no command, and whether the block is busy decides
between the ignored write and the error completion. -/
theorem everyOtherWordIsIllegal : Obligations.EveryOtherWordIsIllegal := by
  unfold Obligations.EveryOtherWordIsIllegal
  intro s w rest hw h
  have hillegal : decodeWord w = .error .illegalCmd := (decodeWord_eq_error_iff_not_command w).2 hw
  refine ⟨hillegal, ?_⟩
  rw [step_write_cmd h]
  cases hb : s.busy with
  | true =>
    obtain ⟨i, hi⟩ := busy_eq_true_iff.1 hb
    refine ⟨_, cmdWrite_of_busy ?_ w, rfl, fun hidle => by simp [hi] at hidle, fun _ => rfl⟩
    exact hb
  | false =>
    refine ⟨_, cmdWrite_of_illegal ?_ hillegal, rfl, fun _ => rfl, fun hrun => absurd (busy_eq_false_iff.1 hb) hrun⟩
    exact hb

end Sys2Proof.Claims
end

section
/-! SUPPORT. The check of a command word and the codes it reports, and a CMD write to an idle block. -/

namespace Sys2Proof

theorem decodeWord_encodeWord (i : Instr) : decodeWord (encodeWord i) = .ok i := by
  cases i <;> rfl

/-- Every word is a command's, or one that the decoder refuses (30_encoding.md R101, R102). -/
theorem eq_encodeWord_or_illegal (w : Word) :
    (∃ i, w = encodeWord i) ∨ ¬ (w = 1 ∨ w = 2 ∨ w = 3 ∨ w = 4 ∨ w = 5) := by
  refine or_iff_not_imp_right.2 fun h => ?_
  obtain rfl | rfl | rfl | rfl | rfl := not_not.1 h
  exacts [⟨.scan, rfl⟩, ⟨.xorsum, rfl⟩, ⟨.addsum, rfl⟩, ⟨.b2u, rfl⟩, ⟨.validate, rfl⟩]

end Sys2Proof

namespace Sys2Proof.Machine

open Sys2Proof.Claims

/-! ### The conditions of a command's checks, by code -/

/-- The condition of each code that the checks of a decoded command can report (40_command.md R121). -/
def commandFails (i : Instr) (s : State) : Nat → Prop
  | 2 => s.params.bufMax < s.bufLen.toNat
  | 3 => i = .scan ∧ s.hdrLen.toNat = 0
  | 4 => i = .scan ∧ s.params.hdrMax < s.hdrLen.toNat
  | 5 => sizeUsed s.ckcfg.mode i = true ∧ (s.ckcfg.size.toNat = 0 ∨ 8 < s.ckcfg.size.toNat)
  | 6 => rangeOp i = true ∧ s.bufLen.toNat < s.argStart.toNat + s.argLen.toNat
  | 7 => i = .b2u ∧ 8 < s.argLen.toNat
  | _ => False

/-- For a command's word the conditions on the word are conditions on the command. -/
theorem violates_encodeWord_iff (i : Instr) (s : State) (k : Nat) :
    violates (encodeWord i) s k ↔ commandFails i s k := by
  unfold violates commandFails
  split <;> cases i <;> simp [encodeWord, sizeUsed, rangeOp]

/-- The code that `checkCommand` reports is one whose condition holds. -/
theorem commandFails_checkCommand {i : Instr} {s : State} (h : checkCommand i s ≠ .noError) :
    commandFails i s (checkCommand i s).toNat := by
  revert h
  unfold checkCommand
  split_ifs with h2 h3 h4 h5 h6 h7 <;> intro h
  exacts [h2, h3, h4, h5, h6, h7, absurd rfl h]

/-- `checkCommand` reports no later code than one whose condition holds. -/
theorem checkCommand_le_of_commandFails {i : Instr} {s : State} {k : Nat} (h : commandFails i s k) :
    1 ≤ (checkCommand i s).toNat ∧ (checkCommand i s).toNat ≤ k := by
  unfold commandFails at h
  unfold checkCommand
  split at h
  case h_7 => exact h.elim
  all_goals split_ifs <;> decide

/-! ### The check of a word -/

/-- `Check` of a word written to CMD, code 1 included (40_command.md R121). -/
def checkWord (w : Word) (s : State) : ErrCode :=
  match decodeWord w with
  | .ok i => checkCommand i s
  | .error _ => .illegalCmd

theorem checkWord_encodeWord (i : Instr) (s : State) : checkWord (encodeWord i) s = checkCommand i s := by
  simp [checkWord, decodeWord_encodeWord]

theorem checkWord_of_illegal {w : Word} (hw : ¬ (w = 1 ∨ w = 2 ∨ w = 3 ∨ w = 4 ∨ w = 5)) (s : State) :
    checkWord w s = .illegalCmd := by
  simp [checkWord, (decodeWord_eq_error_iff_not_command w).2 hw]

theorem violates_checkWord {w : Word} {s : State} (h : checkWord w s ≠ .noError) :
    violates w s (checkWord w s).toNat := by
  obtain ⟨i, rfl⟩ | hw := eq_encodeWord_or_illegal w
  · rw [checkWord_encodeWord] at h ⊢
    exact (violates_encodeWord_iff i s _).2 (commandFails_checkCommand h)
  · rw [checkWord_of_illegal hw]
    exact hw

theorem checkWord_le_of_violates {w : Word} {s : State} {k : Nat} (h : violates w s k) :
    1 ≤ (checkWord w s).toNat ∧ (checkWord w s).toNat ≤ k := by
  obtain ⟨i, rfl⟩ | hw := eq_encodeWord_or_illegal w
  · rw [checkWord_encodeWord]
    exact checkCommand_le_of_commandFails ((violates_encodeWord_iff i s k).1 h)
  · rw [checkWord_of_illegal hw]
    have hk : k ≠ 0 := by rintro rfl; exact h
    exact ⟨le_refl 1, Nat.one_le_iff_ne_zero.2 hk⟩

theorem checkWord_eq_noError_iff (w : Word) (s : State) : checkWord w s = .noError ↔ ∀ k, ¬ violates w s k := by
  refine ⟨fun h k hk => ?_, fun h => not_not.1 fun hne => h _ (violates_checkWord hne)⟩
  have hone := (checkWord_le_of_violates hk).1
  simp [h, ErrCode.toNat] at hone

/-- The lowest code whose condition holds is the one reported (60_exceptions.md R203). -/
theorem checkWord_of_lowest {w : Word} {s : State} {k : Nat} (hk : violates w s k)
    (hmin : ∀ j, j < k → ¬ violates w s j) : (checkWord w s).toNat = k := by
  have hne : checkWord w s ≠ .noError := fun h => (checkWord_eq_noError_iff w s).1 h k hk
  have hle : k ≤ (checkWord w s).toNat := not_lt.1 fun hlt => hmin _ hlt (violates_checkWord hne)
  exact le_antisymm (checkWord_le_of_violates hk).2 hle

/-! ### A CMD write to an idle block -/

theorem cmdWrite_of_checkWord_eq_noError {w : Word} {s : State} (hb : s.busy = false)
    (h : checkWord w s = .noError) :
    ∃ i, decodeWord w = .ok i ∧ cmdWrite w s = .next (acceptedAs s i) := by
  obtain ⟨i, rfl⟩ | hw := eq_encodeWord_or_illegal w
  · rw [checkWord_encodeWord] at h
    have haccept : acceptCommand i s = acceptedAs s i := acceptCommand_ok h
    exact ⟨i, decodeWord_encodeWord i,
      by simp [cmdWrite, hb, decodeWord_encodeWord, exec_idle (busy_eq_false_iff.1 hb), haccept]⟩
  · simp [checkWord_of_illegal hw] at h

theorem cmdWrite_of_checkWord_ne_noError {w : Word} {s : State} (hb : s.busy = false)
    (h : checkWord w s ≠ .noError) : cmdWrite w s = .next (refusedWith s (checkWord w s)) := by
  obtain ⟨i, rfl⟩ | hw := eq_encodeWord_or_illegal w
  · rw [checkWord_encodeWord] at h ⊢
    have hrefuse : acceptCommand i s = refusedWith s (checkCommand i s) := acceptCommand_error h
    simp [cmdWrite, hb, decodeWord_encodeWord, exec_idle (busy_eq_false_iff.1 hb), hrefuse]
  · rw [checkWord_of_illegal hw]
    exact cmdWrite_of_illegal hb ((decodeWord_eq_error_iff_not_command w).2 hw)

/-- The command procedure: a running command has the word ignored, and of an idle block `checkWord` decides between
acceptance and the error completion (40_command.md R120). -/
theorem cmdWrite_procedure (w : Word) (s : State) :
    ∃ t, cmdWrite w s = .next t ∧ t.resp = s.resp ∧
      (s.pending ≠ none → t = s.ignoreWrite) ∧
      (s.pending = none → (∀ k, ¬ violates w s k) → ∃ i, decodeWord w = .ok i ∧ t = acceptedAs s i) ∧
      (∀ k, s.pending = none → violates w s k → (∀ j, j < k → ¬ violates w s j) →
        ∃ c, ErrCode.toNat c = k ∧ t = refusedWith s c) := by
  cases hb : s.busy with
  | true =>
    obtain ⟨i, hi⟩ := busy_eq_true_iff.1 hb
    exact ⟨_, cmdWrite_of_busy hb w, rfl, fun _ => rfl, by simp [hi], by simp [hi]⟩
  | false =>
    have hidle := busy_eq_false_iff.1 hb
    by_cases hcheck : checkWord w s = .noError
    · obtain ⟨i, hi, hwrite⟩ := cmdWrite_of_checkWord_eq_noError hb hcheck
      have hnone := (checkWord_eq_noError_iff w s).1 hcheck
      exact ⟨_, hwrite, rfl, absurd hidle, fun _ _ => ⟨i, hi, rfl⟩, fun k _ hk => absurd hk (hnone k)⟩
    · have hfails := violates_checkWord hcheck
      exact ⟨_, cmdWrite_of_checkWord_ne_noError hb hcheck, rfl, absurd hidle,
        fun _ hnone => absurd hfails (hnone _), fun k _ hk hmin => ⟨_, checkWord_of_lowest hk hmin, rfl⟩⟩

/-- The conditions on a word read the configuration and the build alone, so neither the schedule nor the response
matters to them. -/
theorem violates_answered (w : Word) (s : State) (rest : List Event) (r : Response) :
    violates w { s with schedule := rest, resp := r } = violates w s := by
  funext k
  unfold violates
  rfl

end Sys2Proof.Machine
end

section
/-! SUPPORT. The proofs of the statements about the command procedure: O52, O8. -/

namespace Sys2Proof.Claims

open Sys2Proof.Machine

/-- Settles O52: the step is `cmdWrite` of the answered state, and `cmdWrite_procedure` says what that does. -/
theorem commandWriteFollowsItsProcedure : Obligations.CommandWriteFollowsItsProcedure := by
  unfold Obligations.CommandWriteFollowsItsProcedure
  intro s w rest h
  obtain ⟨t, hwrite, hanswer, hbusy, haccept, hrefuse⟩ :=
    cmdWrite_procedure w { s with schedule := rest, resp := { data := 0, error := false } }
  have hresp : t.resp = { data := 0, error := false } := hanswer
  rw [violates_answered] at haccept hrefuse
  refine ⟨t, (step_write_cmd h).trans hwrite, congrArg Response.error hresp, ?_⟩
  rw [hresp]
  exact ⟨hbusy, haccept, hrefuse⟩

/-- Settles O8: with no condition holding, the write to CMD is the acceptance of the command the word names, and the
engine's completion of a pending command always answers. -/
theorem legalCommandIsAccepted : Obligations.LegalCommandIsAccepted := by
  unfold Obligations.LegalCommandIsAccepted
  intro s w rest hidle h hnone
  obtain ⟨t, hstep, hresp, -, haccept, -⟩ := commandWriteFollowsItsProcedure s w rest h
  obtain ⟨i, hi, ht⟩ := haccept hidle hnone
  have hpending : t.pending = some i := congrArg State.pending ht
  have hbusy : t.busy = true := busy_eq_true_iff.2 ⟨i, hpending⟩
  exact ⟨i, t, _, hi, hstep, hresp, ht, (statusWord_layout t).1.trans hbusy, exec_pending hpending, rfl⟩

end Sys2Proof.Claims
end

section
/-! SUPPORT. The registers' offsets and the targets of a write, and what a host access does to a running command. -/

namespace Sys2Proof.Machine

open Sys2Proof.Claims

/-! ### Registers by kind -/

/-- The eight configuration registers (10_state.md section 2). -/
def Reg.isConfig : Reg → Bool
  | .bufLen | .hdrLen | .lenIndex | .lenOffset | .ckcfg | .ckOffset | .argStart | .argLen => true
  | _ => false

theorem regAt_of_configOffset {x : Nat} (hx : configOffset x) : ∃ r, regAt x = some r ∧ r.isConfig = true := by
  obtain rfl | rfl | rfl | rfl | rfl | rfl | rfl | rfl := hx
  all_goals exact ⟨_, rfl, rfl⟩

theorem lt_of_configOffset {x : Nat} (hx : configOffset x) : x < 0x100 := by
  unfold configOffset at hx
  omega

theorem writeReg_of_isConfig {r : Reg} (h : r.isConfig = true) (v : Word) (s : State) :
    writeReg r v s = .next (s.writeConfig r v) := by
  cases r <;> simp [Reg.isConfig] at h <;> rfl

/-- The only offsets whose registers a write can reach (40_command.md R126, 10_state.md section 2). -/
theorem writeReg_of_other_offset {x : Nat} {r : Reg} (hr : regAt x = some r) (hcmd : x ≠ 0x018)
    (hcfg : ¬ configOffset x) (hctrl : x ≠ 0x010) (hstatus : x ≠ 0x014) (v : Word) (s : State) :
    writeReg r v s = .next s := by
  unfold regAt at hr
  unfold configOffset at hcfg
  split at hr
  case h_5 | h_6 | h_7 | h_8 | h_9 | h_10 | h_11 | h_12 | h_13 | h_14 | h_15 => omega
  case h_22 => cases hr
  all_goals cases hr; rfl

/-! ### The targets of a write -/

theorem writeData_of_configOffset {x : Nat} (hx : configOffset x) (n : Size) (v : Word) (s : State) :
    ∃ r, writeData x n v s = .next (s.writeConfig r v) := by
  obtain ⟨r, hr, hcfg⟩ := regAt_of_configOffset hx
  exact ⟨r, by simp [writeData_registers s n v (lt_of_configOffset hx), hr, writeReg_of_isConfig hcfg]⟩

theorem regionOf_of_inWindow {x : Nat} (hx : inWindow x) : regionOf x = .hdr ∨ regionOf x = .buf := by
  unfold inWindow at hx
  unfold regionOf
  split_ifs <;> simp <;> omega

theorem writeData_of_inWindow {x : Nat} (hx : inWindow x) (n : Size) (v : Word) (s : State) :
    writeData x n v s = .next (s.writeWindow x n v) := by
  obtain h | h := regionOf_of_inWindow hx <;> simp [writeData, h]

theorem writeConfig_of_busy {s : State} (hb : s.busy = true) (r : Reg) (v : Word) :
    s.writeConfig r v = s.ignoreWrite := by
  simp [State.writeConfig, hb]

theorem writeWindow_of_busy {s : State} (hb : s.busy = true) (x : Nat) (n : Size) (v : Word) :
    s.writeWindow x n v = s.ignoreWrite := by
  simp [State.writeWindow, hb]

/-- The targets of which a busy block ignores a write and records it (40_command.md R126). -/
theorem writeData_of_busy {s : State} (hb : s.busy = true) {x : Nat}
    (hx : x = 0x018 ∨ configOffset x ∨ inWindow x) (n : Size) (v : Word) :
    writeData x n v s = .next s.ignoreWrite := by
  obtain rfl | hcfg | hwin := hx
  · exact cmdWrite_of_busy hb v
  · obtain ⟨r, hr⟩ := writeData_of_configOffset hcfg n v s
    rw [hr, writeConfig_of_busy hb]
  · rw [writeData_of_inWindow hwin, writeWindow_of_busy hb]

/-- Read-only and reserved targets ignore a write at all times (40_command.md R126). -/
theorem writeData_of_other {x : Nat}
    (hx : ¬ (x = 0x018 ∨ configOffset x ∨ inWindow x ∨ x = 0x010 ∨ x = 0x014)) (n : Size) (v : Word) (s : State) :
    writeData x n v s = .next s := by
  simp only [not_or] at hx
  obtain ⟨hcmd, hcfg, hwin, hctrl, hstatus⟩ := hx
  unfold inWindow at hwin
  by_cases hreg : x < 0x100
  · rw [writeData_registers s n v hreg]
    cases hr : regAt x with
    | none => rfl
    | some r => exact writeReg_of_other_offset hr hcmd hcfg hctrl hstatus v s
  · have hregion : regionOf x = .reserved ∨ regionOf x = .desc := by
      unfold regionOf
      split_ifs <;> simp <;> omega
    obtain h | h := hregion <;> simp [writeData, h]

/-! ### A host access leaves the running command and its inputs -/

/-- The same command is pending with the same inputs: configuration, windows and latched policies (40_command.md
R126). -/
def keepsCommand (s t : State) : Prop :=
  sameConfig s t ∧ t.mem = s.mem ∧ t.pending = s.pending ∧ t.latAdv = s.latAdv ∧ t.latTail = s.latTail

theorem keepsCommand_refl (s : State) : keepsCommand s s :=
  ⟨⟨rfl, rfl, rfl, rfl, rfl, rfl, rfl, rfl⟩, rfl, rfl, rfl, rfl⟩

theorem WriteEffect.keepsCommand_of_busy {s t : State} (h : WriteEffect s t) (hb : s.busy = true) :
    keepsCommand s t := by
  cases h with
  | nothing | ignored | ctrl | status => exact keepsCommand_refl s
  | config hidle | window hidle | command hidle | illegal hidle => simp [hb] at hidle

theorem hostAccess_keepsCommand {a : Access} {s t : State} (hb : s.busy = true) (h : hostAccess a s = .next t) :
    keepsCommand s t := by
  obtain ⟨u, hu, hcases⟩ := hostAccess_cases a s
  obtain rfl : u = t := by simpa [hu] using h
  obtain ⟨r, rfl | rfl⟩ | heffect := hcases
  · exact keepsCommand_refl s
  · exact keepsCommand_refl s
  · exact heffect.keepsCommand_of_busy hb

end Sys2Proof.Machine
end

section
/-! SUPPORT. The proofs of the statements about the busy phase: O30, O31. -/

namespace Sys2Proof.Claims

open Sys2Proof.Machine

/-- Settles O30: the cases of `step_cases`, of which a host access keeps the command. -/
theorem commandCannotBeCancelled : Obligations.CommandCannotBeCancelled := by
  unfold Obligations.CommandCannotBeCancelled
  intro s t i hi hstep
  obtain ⟨a, rest, hs, haccess⟩ | ⟨j, -, hturn, rfl⟩ | ⟨hidle, -⟩ | ⟨rest, hs, rfl⟩ := step_cases hstep
  · have hb : s.popEvent.busy = true := busy_eq_true_iff.2 ⟨i, hi⟩
    obtain ⟨-, -, hpending, hadv, htail⟩ := hostAccess_keepsCommand hb haccess
    exact .inl ⟨hpending.trans hi, hadv, htail, by simp [nextEngine, hs], by simp [nextResets, hs]⟩
  · exact .inr (.inl ⟨hturn, rfl, rfl⟩)
  · simp [hi] at hidle
  · exact .inr (.inr ⟨⟨rest, hs⟩, rfl⟩)

/-- Settles O31: an access without error reaches `writeData`, whose target decides the row of the table; whichever it
is, the access keeps the command. -/
theorem writesWhileBusyFollowTheTable : Obligations.WritesWhileBusyFollowTheTable := by
  unfold Obligations.WritesWhileBusyFollowTheTable
  intro s x n v rest hb h
  rw [step_of_schedule h]
  cases hok : accessOk x.toNat n with
  | false =>
    have hbad : accessBad x n := (accessOk_eq_false_iff x n).1 hok
    exact ⟨_, hostWrite_of_not_accessOk hok v _, fun _ => rfl, fun hgood => absurd hbad hgood, keepsCommand_refl s⟩
  | true =>
    have hgood : ¬ accessBad x n := by simp [← accessOk_eq_false_iff, hok]
    obtain ⟨t, hstep, hresp⟩ := hostAccess_of_accessOk (.inr rfl) hok { s with schedule := rest }
    have hdata : writeData x.toNat n v (({ s with schedule := rest } : State).respond 0 false) = .next t :=
      (hostWrite_of_accessOk hok v _).symm.trans hstep
    have hkeep := hostAccess_keepsCommand (s := { s with schedule := rest }) hb hstep
    refine ⟨t, hstep, fun hbad => absurd hbad hgood, fun _ => ⟨hresp, fun hx => ?_, ?_, ?_, fun hx => ?_⟩, hkeep⟩
    · have hx' : x.toNat = 0x018 ∨ configOffset x.toNat ∨ inWindow x.toNat := hx.imp_left (congrArg BitVec.toNat)
      have hb' : (({ s with schedule := rest } : State).respond 0 false).busy = true := hb
      rw [writeData_of_busy hb' hx'] at hdata
      cases hdata
      rfl
    · rintro rfl
      cases hdata
      rfl
    · rintro rfl
      cases hdata
      rfl
    · rw [writeData_of_other (by simpa [BitVec.toNat_eq] using hx)] at hdata
      cases hdata
      rfl

end Sys2Proof.Claims
end

section
/-! SUPPORT. What a command computes is a function of its inputs. -/

namespace Sys2Proof.Machine

open Sys2Proof.Claims

/-- Two states of one build agree on what a command computes from (40_command.md R129): the configuration, the latched
policies, every read of the buffer and the header. -/
structure SameInputs (s t : State) : Prop where
  params : t.params = s.params
  config : sameConfig s t
  latAdv : t.latAdv = s.latAdv
  latTail : t.latTail = s.latTail
  buffer : ∀ tag k, k < s.bufLen.toNat → t.bufByte tag k = s.bufByte tag k
  header : ∀ k, k < s.hdrLen.toNat → t.hdrByte k = s.hdrByte k

/-- No read of a buffer whose bytes are defined is a draw. -/
theorem bufByte_of_bufferIs {s : State} {B : List Byte} (h : bufferIs s B) (tag : ReadTag) {k : Nat}
    (hk : k < s.bufLen.toNat) : s.bufByte tag k = B.getD k 0 := by
  obtain ⟨hlen, hdef⟩ := h
  rw [← hlen] at hk
  simp [State.bufByte, hdef k hk, hk]

section Inputs

variable {s t : State} (h : SameInputs s t)

include h

theorem SameInputs.spec_eq : t.spec = s.spec := by
  obtain ⟨-, -, -, -, hckcfg, hckOffset, -, -⟩ := h.config
  simp [State.spec, hckcfg, hckOffset]

theorem SameInputs.header_eq : t.header = s.header := by
  obtain ⟨-, hhdrLen, -⟩ := h.config
  unfold State.header
  rw [hhdrLen]
  exact List.map_congr_left fun k hk => h.header k (List.mem_range.1 hk)

theorem SameInputs.range_eq (hr : s.argStart.toNat + s.argLen.toNat ≤ s.bufLen.toNat) : t.range = s.range := by
  obtain ⟨-, -, -, -, -, -, hstart, hlen⟩ := h.config
  unfold State.range State.bufBytes
  rw [hstart, hlen]
  exact List.map_congr_left fun k hk => h.buffer .range k ((List.mem_range'_1.1 hk).2.trans_le hr)

/-- The scan's inputs differ at most in reads beyond the buffer. -/
theorem SameInputs.scanInput_eq : t.scanInput = { s.scanInput with byte := t.bufByte } := by
  obtain ⟨hbufLen, -, hlenIndex, hlenOffset, -, -, -, -⟩ := h.config
  simp [State.scanInput, hbufLen, hlenIndex, hlenOffset, h.header_eq, h.spec_eq, h.latAdv, h.latTail]

theorem SameInputs.findValidPackets_eq : findValidPackets t.scanInput = findValidPackets s.scanInput := by
  rw [h.scanInput_eq]
  unfold findValidPackets
  rw [loop_congr h.buffer]

/-- A command that passed its checks computes the same from the same inputs (40_command.md R129). -/
theorem SameInputs.resultsOf_eq {i : Instr} (hcheck : checkCommand i s = .noError) :
    resultsOf i t = resultsOf i s := by
  obtain ⟨-, -, -, -, hckcfg, -, -, -⟩ := h.config
  obtain ⟨-, -, -, hrange, -⟩ := checkCommand_noError_iff.1 hcheck
  cases i with
  | scan => simp [resultsOf, scanResults, h.findValidPackets_eq, h.params]
  | xorsum => simp [resultsOf, xorsumResults, h.range_eq (hrange rfl)]
  | addsum => simp [resultsOf, addsumResults, h.range_eq (hrange rfl), hckcfg]
  | b2u => simp [resultsOf, b2uResults, h.range_eq (hrange rfl), hckcfg]
  | validate => simp [resultsOf, validateResults, h.range_eq (hrange rfl), h.spec_eq]

end Inputs

/-- The entry a completion writes for the packet of the same number (42_scan.md R181). -/
theorem complete_desc_of_lt (s : State) {r : Results} {k : Nat} (hk : k < r.packets.length)
    (hmax : k < s.params.pktMax) :
    cellsGet (s.complete r).desc k =
      (r.packets[k]?).map (fun q => { start := BitVec.ofNat 32 q.1, len := BitVec.ofNat 32 q.2 }) := by
  simp [cellsGet_storeDescs, hk, hmax]

end Sys2Proof.Machine
end

section
/-! SUPPORT. The proof of the statement about what the results depend on: O33. -/

namespace Sys2Proof.Claims

open Sys2Proof.Machine

/-- Settles O33: both states complete the command with what it computes, which is the same for both. -/
theorem resultsDependOnTheInputsAlone : Obligations.ResultsDependOnTheInputsAlone := by
  unfold Obligations.ResultsDependOnTheInputsAlone
  intro s s' i t t' B hi hi' hcheck hparams hconfig hadv htail hB hB' hheader hstep hstep'
  have hinputs : SameInputs s s' :=
    { params := hparams, config := hconfig, latAdv := hadv, latTail := htail, header := hheader
      buffer := fun tag k hk => by
        rw [bufByte_of_bufferIs hB tag hk, bufByte_of_bufferIs hB' tag (hconfig.1 ▸ hk)] }
  rw [exec_pending hi] at hstep
  rw [exec_pending hi', hinputs.resultsOf_eq hcheck] at hstep'
  cases hstep
  cases hstep'
  refine ⟨⟨rfl, rfl, rfl, rfl, rfl, rfl⟩, fun k hk _ hmax => ?_⟩
  have hlt : k < (resultsOf i s).packets.length := hk.trans_le (Nat.mod_le _ _)
  rw [complete_desc_of_lt s hlt hmax, complete_desc_of_lt s' hlt (hparams ▸ hmax)]

end Sys2Proof.Claims
end

section
/-! SUPPORT. The checksum functions in the statements' own formulas, and what a validity check answers of a slice cut
into its uncovered, covered and checksum bytes. -/

namespace Sys2Proof.Machine

open Sys2Proof.Claims

/-! ### Exclusive-or -/

theorem xorChecksum_eq_xorOf (b : List Byte) : xorChecksum b = xorOf b := by
  induction b with
  | nil => rfl
  | cons x b ih => rw [xorChecksum_cons, ih]; rfl

/-- Each bit of the exclusive-or is the parity of the bytes that have it (41_checksum.md R140). -/
theorem xorChecksum_getLsbD (b : List Byte) (i : Nat) :
    (xorChecksum b).getLsbD i = decide (b.countP (fun x => x.getLsbD i) % 2 = 1) := by
  induction b with
  | nil => simp [xorChecksum_nil]
  | cons x b ih =>
    rw [xorChecksum_cons, BitVec.getLsbD_xor, ih, List.countP_cons]
    cases x.getLsbD i with
    | false => simp
    | true =>
      rw [Bool.true_xor, ← decide_not]
      exact decide_eq_decide.2 (by simp only [if_true]; omega)

theorem xorChecksum_perm {b b' : List Byte} (h : b.Perm b') : xorChecksum b = xorChecksum b' := by
  induction h with
  | nil => rfl
  | cons x _ ih => rw [xorChecksum_cons, xorChecksum_cons, ih]
  | swap x y b => simp only [xorChecksum_cons, ← BitVec.xor_assoc, BitVec.xor_comm y x]
  | trans _ _ ih ih' => exact ih.trans ih'

/-! ### Sums -/

theorem byteSum_eq_sumOf (b : List Byte) : byteSum b = sumOf b := by
  induction b with
  | nil => rfl
  | cons x b ih => rw [byteSum, ih, sumOf, sumOf, List.map_cons, List.sum_cons]

theorem addChecksum_eq_sumOf_mod (b : List Byte) (size : Nat) : addChecksum b size = sumOf b % 2 ^ (8 * size) := by
  rw [addChecksum, byteSum_eq_sumOf]

theorem addChecksum_perm {b b' : List Byte} (h : b.Perm b') (size : Nat) :
    addChecksum b size = addChecksum b' size := by
  rw [addChecksum_eq_sumOf_mod, addChecksum_eq_sumOf_mod, sumOf, sumOf, (h.map BitVec.toNat).sum_eq]

/-! ### Bytes as numbers -/

theorem beNat_eq_uintOf (b : List Byte) : beNat b = uintOf b .big := by
  induction b with
  | nil => rfl
  | cons x b ih =>
    have hweight (i : Nat) : b.length - 1 - i = b.length - (i + 1) := by omega
    simp only [beNat_cons, ih, uintOf, List.length_cons, Finset.sum_range_succ', List.getD_cons_succ,
      List.getD_cons_zero, Nat.add_sub_cancel, Nat.sub_zero, hweight]
    ring

theorem leNat_eq_uintOf (b : List Byte) : leNat b = uintOf b .little := by
  induction b with
  | nil => rfl
  | cons x b ih =>
    have hweight (i : Nat) : 2 ^ (8 * (i + 1)) = 256 * 2 ^ (8 * i) := by ring
    simp only [leNat, ih, uintOf, List.length_cons, Finset.sum_range_succ', List.getD_cons_succ, List.getD_cons_zero,
      hweight, Finset.mul_sum, mul_left_comm]
    ring

theorem bytesToUint_eq_uintOf (b : List Byte) (e : Endian) : bytesToUint b e = uintOf b e := by
  cases e with
  | big => exact beNat_eq_uintOf b
  | little => exact leNat_eq_uintOf b

/-- Little-endian reading is big-endian reading of the reversed bytes (41_checksum.md R152). -/
theorem leNat_eq_beNat_reverse (b : List Byte) : leNat b = beNat b.reverse := by
  induction b with
  | nil => rfl
  | cons x b ih => rw [leNat, ih, List.reverse_cons, beNat_append, beNat_cons]; simp [beNat, add_comm]

/-! ### The validity check -/

theorem slice_eq_drop_take (b : List Byte) (i j : Nat) : slice b i j = (b.take j).drop i := List.drop_take.symm

theorem isChecksumValid_of_not_fits {b : List Byte} {spec : ChecksumSpec} (h : ¬ fits b spec) :
    isChecksumValid b spec = Verdict.tooShort := by
  cases spec with
  | xor off => exact if_pos (not_le.1 h)
  | add size off e => exact if_pos (by simp only [fits, not_and_or, not_le] at h; exact h)

theorem rangeFail_of_fits {b : List Byte} {spec : ChecksumSpec} (h : fits b spec) :
    (isChecksumValid b spec).rangeFail = false := by
  cases spec with
  | xor off => rw [isChecksumValid, xorValid, if_neg (not_lt.2 h)]
  | add size off e => rw [isChecksumValid, addValid, if_neg (by unfold fits at h; omega)]

/-- Of a slice long enough for its specification the answer is whether the stored checksum is the covered bytes'
(41_checksum.md R143, R144). -/
theorem valid_iff_stored {b : List Byte} {spec : ChecksumSpec} (h : fits b spec) :
    (isChecksumValid b spec).valid = true ↔ stored b spec := by
  cases spec with
  | xor off =>
    rw [isChecksumValid, xorValid, if_neg (not_lt.2 h), stored, List.getLast?_eq_getElem?, ← xorChecksum_eq_xorOf,
      ← slice_eq_drop_take, beq_iff_eq, eq_comm]
  | add size off e =>
    rw [isChecksumValid, addValid, if_neg (by unfold fits at h; omega), stored, ← bytesToUint_eq_uintOf,
      ← addChecksum_eq_sumOf_mod, beq_iff_eq, slice_eq_drop_take, slice_eq_drop_take, List.take_length]

theorem rangeFail_iff_not_fits (b : List Byte) (spec : ChecksumSpec) :
    (isChecksumValid b spec).rangeFail = true ↔ ¬ fits b spec := by
  by_cases h : fits b spec
  · simp [rangeFail_of_fits h, h]
  · simp [isChecksumValid_of_not_fits h, h, Verdict.tooShort]

theorem valid_iff_fits_and_stored (b : List Byte) (spec : ChecksumSpec) :
    (isChecksumValid b spec).valid = true ↔ fits b spec ∧ stored b spec := by
  by_cases h : fits b spec
  · simp [valid_iff_stored h, h]
  · simp [isChecksumValid_of_not_fits h, h, Verdict.tooShort]

/-! ### A slice cut into its parts -/

/-- What XOR checks of a slice cut into uncovered bytes, covered bytes and the checksum byte. -/
theorem isChecksumValid_xor_parts (pre b : List Byte) (z : Byte) :
    isChecksumValid (pre ++ b ++ [z]) (.xor pre.length) = { valid := xorChecksum b == z, rangeFail := false } := by
  have hlen : (pre ++ b ++ [z]).length - 1 = (pre ++ b).length := by simp
  have hcovered : slice (pre ++ b ++ [z]) pre.length (pre ++ b).length = b := by
    rw [slice_eq_drop_take, List.take_left, List.drop_left]
  rw [isChecksumValid, xorValid, if_neg (by simp), hlen, hcovered, List.getElem?_concat_length, Option.some_beq_some]

/-- What ADD checks of a slice cut into uncovered bytes, covered bytes and the checksum bytes. -/
theorem isChecksumValid_add_parts (pre b post : List Byte) (e : Endian) :
    isChecksumValid (pre ++ b ++ post) (.add post.length pre.length e) =
      { valid := addChecksum b post.length == bytesToUint post e, rangeFail := false } := by
  have hlen : (pre ++ b ++ post).length - post.length = (pre ++ b).length := by
    rw [List.length_append, Nat.add_sub_cancel]
  have hcovered : slice (pre ++ b ++ post) pre.length (pre ++ b).length = b := by
    rw [slice_eq_drop_take, List.take_left, List.drop_left]
  have hchecksum : slice (pre ++ b ++ post) (pre ++ b).length (pre ++ b ++ post).length = post := by
    rw [slice_eq_drop_take, List.take_length, List.drop_left]
  rw [isChecksumValid, addValid, hlen, if_neg (by simp [← Nat.add_assoc]), hcovered, hchecksum]

/-- A slice long enough for XOR has the three parts. -/
theorem exists_parts_of_fits_xor {b : List Byte} {off : Nat} (h : off + 1 ≤ b.length) :
    ∃ pre c z, b = pre ++ c ++ [z] ∧ pre.length = off := by
  obtain rfl | ⟨d, z, rfl⟩ := b.eq_nil_or_concat
  · simp at h
  · have hoff : off ≤ d.length := by simpa using h
    exact ⟨d.take off, d.drop off, z, by simp, by simpa using hoff⟩

/-- A slice long enough for ADD has the three parts. -/
theorem exists_parts_of_fits_add {b : List Byte} {size off : Nat} (hsize : size ≤ b.length)
    (hoff : off ≤ b.length - size) :
    ∃ pre c post, b = pre ++ c ++ post ∧ pre.length = off ∧ post.length = size := by
  refine ⟨(b.take (b.length - size)).take off, (b.take (b.length - size)).drop off, b.drop (b.length - size),
    ?_, ?_, ?_⟩
  · rw [List.take_append_drop, List.take_append_drop]
  · simp only [List.length_take]; omega
  · rw [List.length_drop]; omega

/-- XOR validity is that the exclusive-or over the covered bytes and the checksum is 0 (41_checksum.md R152). -/
theorem xor_valid_iff_xorChecksum_drop {b : List Byte} {off : Nat} (h : off + 1 ≤ b.length) :
    (isChecksumValid b (.xor off)).valid = true ↔ xorChecksum (b.drop off) = 0 := by
  obtain ⟨pre, c, z, rfl, rfl⟩ := exists_parts_of_fits_xor h
  rw [isChecksumValid_xor_parts, List.append_assoc, List.drop_left, xorChecksum_append, xorChecksum_singleton,
    beq_iff_eq]
  exact BitVec.xor_eq_zero_iff.symm

/-- ADD little validity is ADD big validity with the checksum bytes reversed (41_checksum.md R152). -/
theorem add_little_eq_add_big_reverse (b : List Byte) (size off : Nat) :
    isChecksumValid b (.add size off .little) =
      isChecksumValid (b.take (b.length - size) ++ (b.drop (b.length - size)).reverse) (.add size off .big) := by
  by_cases h : fits b (.add size off .little)
  · obtain ⟨hsize, hoff⟩ := h
    obtain ⟨pre, c, post, rfl, rfl, rfl⟩ := exists_parts_of_fits_add hsize hoff
    have hlen : (pre ++ c ++ post).length - post.length = (pre ++ c).length := by
      rw [List.length_append, Nat.add_sub_cancel]
    have hbig := isChecksumValid_add_parts pre c post.reverse .big
    rw [List.length_reverse] at hbig
    rw [hlen, List.take_left, List.drop_left, hbig, isChecksumValid_add_parts, bytesToUint, bytesToUint,
      leNat_eq_beNat_reverse]
  · have hlen : (b.take (b.length - size) ++ (b.drop (b.length - size)).reverse).length = b.length := by
      simp only [List.length_append, List.length_take, List.length_reverse, List.length_drop]; omega
    have hbig : ¬ fits (b.take (b.length - size) ++ (b.drop (b.length - size)).reverse) (.add size off .big) := by
      unfold fits
      rwa [hlen]
    rw [isChecksumValid_of_not_fits h, isChecksumValid_of_not_fits hbig]

end Sys2Proof.Machine
end

section
/-! SUPPORT. The proofs of the statements about the checksum functions: O16, O19, O20, O21. -/

namespace Sys2Proof.Claims

open Sys2Proof.Machine

/-- Settles O16: the parity of a bit is carried through the fold byte by byte. -/
theorem xorChecksumIsTheBitwiseParity : Obligations.XorChecksumIsTheBitwiseParity := by
  unfold Obligations.XorChecksumIsTheBitwiseParity
  exact ⟨xorChecksum_nil, fun b => ⟨xorChecksum_eq_xorOf b, fun i _ => xorChecksum_getLsbD b i⟩⟩

/-- Settles O19: whether the slice fits decides the range check, and of one that fits `valid_iff_stored` says the rest;
with off = n - 1 no byte is covered, so the stored checksum is 0. -/
theorem xorValidityFollowsItsRule : Obligations.XorValidityFollowsItsRule := by
  unfold Obligations.XorValidityFollowsItsRule
  refine fun b off => ⟨fun h => isChecksumValid_of_not_fits (not_le.2 h), fun h => ?_, fun h => ?_, ?_⟩
  · exact ⟨rangeFail_of_fits (spec := .xor off) h, valid_iff_stored (spec := .xor off) h⟩
  · have hcovered : (b.take (b.length - 1)).drop off = [] := List.drop_eq_nil_of_le (by simp; omega)
    rw [valid_iff_stored (spec := .xor off) h.le, stored, hcovered]
    rfl
  · rintro rfl
    exact (rangeFail_iff_not_fits [] (.xor off)).2 (by simp [fits])

/-- Settles O20: as for XOR; with off = n - size no byte is covered, so the sum is 0. -/
theorem addValidityFollowsItsRule : Obligations.AddValidityFollowsItsRule := by
  unfold Obligations.AddValidityFollowsItsRule
  refine fun b size off e _ _ => ⟨fun h => ?_, fun hsize hoff => ?_, fun hsize hoff => ?_⟩
  · exact isChecksumValid_of_not_fits (by unfold fits; omega)
  · have hfits : fits b (.add size off e) := ⟨hsize, hoff⟩
    exact ⟨rangeFail_of_fits hfits, valid_iff_stored hfits⟩
  · have hfits : fits b (.add size off e) := ⟨hsize, hoff.le⟩
    have hcovered : (b.take (b.length - size)).drop off = [] := List.drop_eq_nil_of_le (by simp; omega)
    rw [valid_iff_stored hfits, stored, hcovered, eq_comm]
    simp [sumOf]

/-- Settles O21: the laws of a slice's validity come from its parts, of which the check sees the covered bytes through
their checksum alone. -/
theorem checksumLawsHold : Obligations.ChecksumLawsHold := by
  unfold Obligations.ChecksumLawsHold
  refine ⟨fun b => ?_, fun b off h => xor_valid_iff_xorChecksum_drop h,
    fun b size _ _ => addChecksum_eq_sumOf_mod b size,
    fun b b' h => ⟨xorChecksum_perm h, addChecksum_perm h, fun pre z => ?_, fun pre post e => ?_⟩,
    leNat_eq_beNat_reverse, fun b size off _ _ => add_little_eq_add_big_reverse b size off⟩
  · simpa using isChecksumValid_xor_parts [] b (xorChecksum b)
  · rw [isChecksumValid_xor_parts, isChecksumValid_xor_parts, xorChecksum_perm h]
  · rw [isChecksumValid_add_parts, isChecksumValid_add_parts, addChecksum_perm h]

end Sys2Proof.Claims
end

section
/-! SUPPORT. The two phases of a range command: which check refuses it, and what its completion writes. -/

namespace Sys2Proof.Machine

open Sys2Proof.Claims

/-! ### The checks of a range command, in order -/

theorem checkCommand_eq_bufLenRange (i : Instr) {s : State} (h : s.params.bufMax < s.bufLen.toNat) :
    checkCommand i s = .bufLenRange := if_pos h

/-- The limits that the check of SIZE sets (40_command.md R121 code 5). -/
def sizeChecked (i : Instr) (s : State) : Prop :=
  sizeUsed s.ckcfg.mode i = true → 1 ≤ s.ckcfg.size.toNat ∧ s.ckcfg.size.toNat ≤ 8

theorem sizeChecked_addsum_iff (s : State) :
    sizeChecked .addsum s ↔ 1 ≤ s.ckcfg.size.toNat ∧ s.ckcfg.size.toNat ≤ 8 := by
  simp [sizeChecked, sizeUsed]

theorem spec_eq_specOf (s : State) : s.spec = specOf s := by
  unfold State.spec specOf
  cases s.ckcfg.mode <;> rfl

theorem sizeChecked_validate_iff (s : State) : sizeChecked .validate s ↔ specLegal (specOf s) := by
  unfold sizeChecked specOf
  cases s.ckcfg.mode <;> simp [sizeUsed, specLegal]

section RangeCommand

variable {i : Instr} {s : State} (hi : rangeOp i = true) (hbuf : s.bufLen.toNat ≤ s.params.bufMax)

include hi

theorem ne_scan_of_rangeOp : i ≠ .scan := by
  rintro rfl
  cases hi

include hbuf

theorem checkCommand_eq_badCkSize (hsize : ¬ sizeChecked i s) : checkCommand i s = .badCkSize := by
  obtain ⟨hused, hbad⟩ := Classical.not_imp.1 hsize
  have hcond : s.ckcfg.size.toNat = 0 ∨ 8 < s.ckcfg.size.toNat := by omega
  simp [checkCommand, not_lt.2 hbuf, ne_scan_of_rangeOp hi, hused, hcond]

theorem checkCommand_eq_argRange (hsize : sizeChecked i s)
    (hrange : s.bufLen.toNat < s.argStart.toNat + s.argLen.toNat) : checkCommand i s = .argRange := by
  have hcond : ¬ (sizeUsed s.ckcfg.mode i = true ∧ (s.ckcfg.size.toNat = 0 ∨ 8 < s.ckcfg.size.toNat)) := by
    rintro ⟨hused, hbad⟩
    have := hsize hused
    omega
  rw [checkCommand, if_neg (not_lt.2 hbuf), if_neg (by simp [ne_scan_of_rangeOp hi]),
    if_neg (by simp [ne_scan_of_rangeOp hi]), if_neg hcond, if_pos ⟨hi, hrange⟩]

theorem checkCommand_eq_noError (hsize : sizeChecked i s)
    (hrange : s.argStart.toNat + s.argLen.toNat ≤ s.bufLen.toNat) (hb2u : i = .b2u → s.argLen.toNat ≤ 8) :
    checkCommand i s = .noError :=
  checkCommand_noError_iff.2
    ⟨hbuf, fun hscan => absurd hscan (ne_scan_of_rangeOp hi), hsize, fun _ => hrange, hb2u⟩

end RangeCommand

theorem checkCommand_b2u_eq_b2uTooLong {s : State} (hbuf : s.bufLen.toNat ≤ s.params.bufMax)
    (hrange : s.argStart.toNat + s.argLen.toNat ≤ s.bufLen.toNat) (hlen : 8 < s.argLen.toNat) :
    checkCommand .b2u s = .b2uTooLong := by
  simp [checkCommand, not_lt.2 hbuf, not_lt.2 hrange, sizeUsed, hlen]

/-! ### Acceptance, refusal and completion -/

theorem exec_refused {i : Instr} {s : State} {c : ErrCode} (hidle : s.pending = none) (h : checkCommand i s = c)
    (hc : c ≠ .noError) : exec i s = .next (refusedWith s c) := by
  subst h
  rw [exec_idle hidle, acceptCommand_error hc]
  rfl

/-- The bytes a command reads of its range are the stored ones where BUF is defined (41_checksum.md R151). -/
theorem rangeReads_range (s : State) : rangeReads s s.range := by
  refine ⟨by simp [State.range, State.bufBytes], fun j b hj hb => ?_⟩
  have hj' : j < s.argLen.toNat := by simpa [State.range, State.bufBytes] using hj
  simp [State.range, State.bufBytes, hj', State.bufByte, hb]

/-- RES_HI:RES_LO hold a value modulo 2^64 (10_state.md R40). -/
theorem extractLsb'_ofNat_lo (v : Nat) : (BitVec.ofNat 64 v).extractLsb' 0 32 = BitVec.ofNat 32 v := by
  apply BitVec.eq_of_toNat_eq
  simp only [BitVec.extractLsb'_toNat, BitVec.toNat_ofNat, Nat.shiftRight_zero]
  omega

theorem extractLsb'_ofNat_hi (v : Nat) : (BitVec.ofNat 64 v).extractLsb' 32 32 = BitVec.ofNat 32 (v / 2 ^ 32) := by
  apply BitVec.eq_of_toNat_eq
  simp only [BitVec.extractLsb'_toNat, BitVec.toNat_ofNat, Nat.shiftRight_eq_div_pow]
  omega

/-- A command whose checks pass is accepted, and completes with what it computes; one that finds no packets writes
flags and a value alone (40_command.md R122, R125, R127). -/
theorem exec_completes {i : Instr} {s : State} {f : ResFlags} {v : Nat} (hidle : s.pending = none)
    (hcheck : checkCommand i s = .noError)
    (hres : resultsOf i (acceptedAs s i) = { packets := [], rem := (0, 0), flags := f, value := BitVec.ofNat 64 v }) :
    ∃ t, exec i s = .next (acceptedAs s i) ∧ exec i (acceptedAs s i) = .next t ∧ completedAs s t f v := by
  refine ⟨_, ?_, exec_pending rfl, ?_⟩
  · rw [exec_idle hidle, acceptCommand_ok hcheck]
    rfl
  · rw [hres, completedAs]
    simp [State.complete, acceptedAs, storeDescs, extractLsb'_ofNat_lo, extractLsb'_ofNat_hi]

end Sys2Proof.Machine
end

section
/-! SUPPORT. The proofs of the statements about the range commands: O9, O10, O11, O12. -/

namespace Sys2Proof.Claims

open Sys2Proof.Machine

/-- Settles O9: the checks in their order, then the completion with the exclusive-or of the range as read. -/
theorem xorsumWritesTheXorOfTheRange : Obligations.XorsumWritesTheXorOfTheRange := by
  unfold Obligations.XorsumWritesTheXorOfTheRange
  refine ⟨decodeWord_encodeWord .xorsum, fun s hidle => ⟨fun hbuf => ?_, fun hbuf hrange => ?_,
    fun hbuf hrange => ?_⟩⟩
  · exact exec_refused hidle (checkCommand_eq_bufLenRange .xorsum hbuf) (by decide)
  · exact exec_refused hidle (checkCommand_eq_argRange rfl hbuf nofun hrange) (by decide)
  · have hres : xorsumResults (acceptedAs s .xorsum) = Results.ofValue (BitVec.ofNat 64 (xorOf s.range).toNat) := by
      rw [← xorChecksum_eq_xorOf, BitVec.ofNat_toNat]
      rfl
    have hcheck : checkCommand .xorsum s = .noError := checkCommand_eq_noError rfl hbuf nofun hrange nofun
    obtain ⟨t, ht⟩ := exec_completes hidle hcheck hres
    exact ⟨s.range, t, rangeReads_range s, ht⟩

/-- Settles O10: the checks in their order, then the completion with the sum of the range as read. -/
theorem addsumWritesTheSumOfTheRange : Obligations.AddsumWritesTheSumOfTheRange := by
  unfold Obligations.AddsumWritesTheSumOfTheRange
  refine ⟨decodeWord_encodeWord .addsum, fun s hidle => ⟨fun hbuf => ?_, fun hbuf hbad => ?_,
    fun hbuf hpos hle hrange => ?_, fun hbuf hpos hle hrange => ?_⟩⟩
  · exact exec_refused hidle (checkCommand_eq_bufLenRange .addsum hbuf) (by decide)
  · have hsize : ¬ sizeChecked .addsum s := by rw [sizeChecked_addsum_iff]; omega
    exact exec_refused hidle (checkCommand_eq_badCkSize rfl hbuf hsize) (by decide)
  · have hsize : sizeChecked .addsum s := (sizeChecked_addsum_iff s).2 ⟨hpos, hle⟩
    exact exec_refused hidle (checkCommand_eq_argRange rfl hbuf hsize hrange) (by decide)
  · have hsize : sizeChecked .addsum s := (sizeChecked_addsum_iff s).2 ⟨hpos, hle⟩
    have hres : addsumResults (acceptedAs s .addsum) =
        Results.ofValue (BitVec.ofNat 64 (sumOf s.range % 2 ^ (8 * s.ckcfg.size.toNat))) := by
      rw [← addChecksum_eq_sumOf_mod]
      rfl
    have hcheck : checkCommand .addsum s = .noError := checkCommand_eq_noError rfl hbuf hsize hrange nofun
    obtain ⟨t, ht⟩ := exec_completes hidle hcheck hres
    exact ⟨s.range, t, rangeReads_range s, ht⟩

/-- Settles O11: the checks in their order, then the completion with the integer of the range as read. -/
theorem b2uWritesTheIntegerOfTheRange : Obligations.B2uWritesTheIntegerOfTheRange := by
  unfold Obligations.B2uWritesTheIntegerOfTheRange
  refine ⟨decodeWord_encodeWord .b2u, fun s hidle => ⟨fun hbuf => ?_, fun hbuf hrange => ?_,
    fun hbuf hrange hlen => ?_, fun hbuf hrange hlen => ?_⟩⟩
  · exact exec_refused hidle (checkCommand_eq_bufLenRange .b2u hbuf) (by decide)
  · exact exec_refused hidle (checkCommand_eq_argRange rfl hbuf nofun hrange) (by decide)
  · exact exec_refused hidle (checkCommand_b2u_eq_b2uTooLong hbuf hrange hlen) (by decide)
  · have hres : b2uResults (acceptedAs s .b2u) =
        Results.ofValue (BitVec.ofNat 64 (uintOf s.range s.ckcfg.endian)) := by
      rw [← bytesToUint_eq_uintOf]
      rfl
    have hcheck : checkCommand .b2u s = .noError := checkCommand_eq_noError rfl hbuf nofun hrange (fun _ => hlen)
    obtain ⟨t, ht⟩ := exec_completes hidle hcheck hres
    exact ⟨s.range, t, rangeReads_range s, ht⟩

/-- Settles O12: the checks in their order, then the completion with the verdict on the range as read. -/
theorem validateWritesTheVerdictOnTheRange : Obligations.ValidateWritesTheVerdictOnTheRange := by
  unfold Obligations.ValidateWritesTheVerdictOnTheRange
  refine ⟨decodeWord_encodeWord .validate, fun s hidle => ?_⟩
  rw [← sizeChecked_validate_iff]
  refine ⟨fun hbuf => ?_, fun hbuf hsize => ?_, fun hbuf hsize hrange => ?_, fun hbuf hsize hrange => ?_⟩
  · exact exec_refused hidle (checkCommand_eq_bufLenRange .validate hbuf) (by decide)
  · exact exec_refused hidle (checkCommand_eq_badCkSize rfl hbuf hsize) (by decide)
  · exact exec_refused hidle (checkCommand_eq_argRange rfl hbuf hsize hrange) (by decide)
  · have hcheck : checkCommand .validate s = .noError := checkCommand_eq_noError rfl hbuf hsize hrange nofun
    obtain ⟨t, ht⟩ := exec_completes (v := 0) hidle hcheck rfl
    refine ⟨s.range, _, t, rangeReads_range s, ?_, ?_, rfl, ht⟩
    · rw [← spec_eq_specOf]
      exact valid_iff_fits_and_stored s.range s.spec
    · rw [← spec_eq_specOf]
      exact rangeFail_iff_not_fits s.range s.spec

end Sys2Proof.Claims
end

section
/-! SUPPORT. What a pass of the scan answers, the bounds a finished scan keeps, and what its completion stores. -/

namespace Sys2Proof.Machine

open Sys2Proof.Claims

/-! ### One pass -/

theorem sized_of_specLegal {I : ScanInput} (h : specLegal I.spec) : I.sized := by
  intro size off e he
  rw [he] at h
  exact h.1

/-- A pass that finds a candidate ends as the candidate does. -/
theorem pass_of_candidate {I : ScanInput} {c a : Nat} (h : I.candidate c = some a) : I.pass c = I.tryCandidate a := by
  simp [ScanInput.pass, h]

theorem pass_of_no_candidate {I : ScanInput} {c : Nat} (h : I.candidate c = none) :
    I.pass c = .stop (if I.tail then (c, I.n - c) else (I.n, 0)) := by
  simp [ScanInput.pass, h]

/-- A pass that returns reports a suffix of the buffer as the remainder (42_scan.md R173, R175, R179). -/
theorem rem_add_of_pass_eq_stop {I : ScanInput} {c : Nat} {rem : Nat × Nat} (hc : c ≤ I.n)
    (h : I.pass c = .stop rem) : rem.1 + rem.2 = I.n := by
  cases hk : I.candidate c with
  | none =>
    rw [pass_of_no_candidate hk] at h
    cases h
    split
    · exact Nat.add_sub_cancel' hc
    · rfl
  | some s =>
    obtain ⟨-, hs, -, -⟩ := candidate_eq_some hk
    rw [pass_of_candidate hk] at h
    rcases tryCandidate_cases I s with ⟨-, e⟩ | ⟨-, -, -, e⟩ | ⟨e, -⟩ | ⟨-, -, -, -, -, e⟩ <;> rw [e] at h <;> cases h
    · exact Nat.add_sub_cancel' hs.le
    · exact Nat.add_sub_cancel' hs.le

/-- A pass that reports a packet found its start as the candidate and went through the steps 3 to 8 (42_scan.md R173 to
R178). -/
theorem of_pass_eq_packet {I : ScanInput} {c a L c' : Nat} (h : I.pass c = .packet a L c') :
    I.candidate c = some a ∧ I.hdr.length ≤ I.n - a ∧ I.bytes (.header a) a I.hdr.length = I.hdr ∧
    I.li + 1 ≤ I.n - a ∧ L = I.packetLen a ∧ L ≤ I.n - a ∧
    (isChecksumValid (I.bytes (.check a) a L) I.spec).valid = true ∧ c' = if I.adv then a + L else a + 1 := by
  cases hk : I.candidate c with
  | none =>
    rw [pass_of_no_candidate hk] at h
    cases h
  | some s =>
    rw [pass_of_candidate hk] at h
    rcases tryCandidate_cases I s with ⟨-, e⟩ | ⟨-, -, -, e⟩ | ⟨e, -⟩ | ⟨hhdr, heq, hli, hL, hv, e⟩ <;>
      rw [e] at h <;> cases h
    exact ⟨rfl, hhdr, heq, hli, rfl, hL, hv, rfl⟩

/-- A reported packet is a nonempty slice of the buffer at or after the cursor, which moves past its start
(42_scan.md R180). -/
theorem packet_bounds {I : ScanInput} (hI : I.sized) {c a L c' : Nat} (h : I.pass c = .packet a L c') :
    c ≤ a ∧ a < I.n ∧ 1 ≤ L ∧ L ≤ I.n - a ∧ a < c' := by
  obtain ⟨hk, -, -, -, -, hL, hv, hc'⟩ := of_pass_eq_packet h
  obtain ⟨hca, han, -, -⟩ := candidate_eq_some hk
  have hpos : 1 ≤ L := by simpa [bytes_length] using one_le_length_of_valid hI hv
  refine ⟨hca, han, hpos, hL, ?_⟩
  split at hc' <;> omega

/-! ### A finished scan, by induction on its passes (42_scan.md R180) -/

section Run

variable {I : ScanInput} (hI : I.sized) {c : Nat} {P : List (Nat × Nat)} {rem : Nat × Nat}

include hI

theorem ScanRun.packets_within (h : ScanRun I c P rem) :
    ∀ q ∈ P, c ≤ q.1 ∧ q.1 < I.n ∧ 1 ≤ q.2 ∧ q.2 ≤ I.n - q.1 := by
  induction h with
  | stop => simp
  | skip hp _ ih =>
    intro q hq
    obtain ⟨hle, hslice⟩ := ih q hq
    exact ⟨(pass_progress hI (.inl hp)).1.le.trans hle, hslice⟩
  | packet hp _ ih =>
    obtain ⟨hca, han, hpos, hL, hac'⟩ := packet_bounds hI hp
    intro q hq
    rcases List.mem_cons.1 hq with rfl | hq
    · exact ⟨hca, han, hpos, hL⟩
    · obtain ⟨hle, hslice⟩ := ih q hq
      exact ⟨hca.trans (hac'.le.trans hle), hslice⟩

theorem ScanRun.starts_increase (h : ScanRun I c P rem) : P.Pairwise (fun p q => p.1 < q.1) := by
  induction h with
  | stop => exact .nil
  | skip _ _ ih => exact ih
  | packet hp t ih =>
    obtain ⟨-, -, -, -, hac'⟩ := packet_bounds hI hp
    exact List.pairwise_cons.2 ⟨fun q hq => hac'.trans_le (t.packets_within hI q hq).1, ih⟩

/-- Each packet moves the cursor forward, so there are no more than bytes after the cursor. -/
theorem ScanRun.length_add_le (h : ScanRun I c P rem) (hc : c ≤ I.n) : P.length + c ≤ I.n := by
  induction h with
  | stop => simpa using hc
  | skip hp _ ih =>
    obtain ⟨hlt, hle⟩ := pass_progress hI (.inl hp)
    have := ih hle
    omega
  | packet hp _ ih =>
    obtain ⟨hlt, hle⟩ := pass_progress hI (.inr ⟨_, _, hp⟩)
    have := ih hle
    rw [List.length_cons]
    omega

theorem ScanRun.rem_add (h : ScanRun I c P rem) (hc : c ≤ I.n) : rem.1 + rem.2 = I.n := by
  induction h with
  | stop hp => exact rem_add_of_pass_eq_stop hc hp
  | skip hp _ ih => exact ih (pass_progress hI (.inl hp)).2
  | packet hp _ ih => exact ih (pass_progress hI (.inr ⟨_, _, hp⟩)).2

end Run

/-- The passes that `findValidPackets` allows suffice (42_scan.md R180). -/
theorem loop_eq_findValidPackets {I : ScanInput} (hI : I.sized) : I.loop (I.n + 1) 0 = some (findValidPackets I) := by
  obtain ⟨r, hr⟩ := loop_isSome hI (Nat.zero_le I.n) (Nat.le_refl (I.n + 1))
  simp [findValidPackets, hr]

theorem findValidPackets_congr {I : ScanInput} {byte' : ReadTag → Nat → Byte}
    (h : ∀ t k, k < I.n → byte' t k = I.byte t k) :
    findValidPackets { I with byte := byte' } = findValidPackets I := by
  unfold findValidPackets
  rw [loop_congr h]

/-! ### The checks of SCAN, in order -/

theorem sizeChecked_scan_iff (s : State) : sizeChecked .scan s ↔ specLegal (specOf s) :=
  sizeChecked_validate_iff s

section ScanChecks

variable {s : State} (hbuf : s.bufLen.toNat ≤ s.params.bufMax)

include hbuf

theorem checkCommand_scan_eq_emptyHeader (h0 : s.hdrLen.toNat = 0) : checkCommand .scan s = .emptyHeader := by
  rw [checkCommand, if_neg (not_lt.2 hbuf), if_pos ⟨rfl, h0⟩]

variable (hpos : 1 ≤ s.hdrLen.toNat)

include hpos

theorem checkCommand_scan_eq_hdrTooLong (hlong : s.params.hdrMax < s.hdrLen.toNat) :
    checkCommand .scan s = .hdrTooLong := by
  rw [checkCommand, if_neg (not_lt.2 hbuf), if_neg (fun h => Nat.one_le_iff_ne_zero.1 hpos h.2), if_pos ⟨rfl, hlong⟩]

theorem checkCommand_scan_eq_badCkSize (hfit : s.hdrLen.toNat ≤ s.params.hdrMax) (hsize : ¬ sizeChecked .scan s) :
    checkCommand .scan s = .badCkSize := by
  obtain ⟨hused, hbad⟩ := Classical.not_imp.1 hsize
  rw [checkCommand, if_neg (not_lt.2 hbuf), if_neg (fun h => Nat.one_le_iff_ne_zero.1 hpos h.2),
    if_neg (fun h => not_lt.2 hfit h.2), if_pos ⟨hused, by omega⟩]

end ScanChecks

theorem checkCommand_scan_eq_noError {s : State} (h : scanLegal s) : checkCommand .scan s = .noError := by
  obtain ⟨hbuf, hpos, hfit, hspec⟩ := h
  exact checkCommand_noError_iff.2 ⟨hbuf, fun _ => ⟨hpos, hfit⟩, (sizeChecked_scan_iff s).2 hspec, nofun, nofun⟩

/-! ### The two phases of SCAN -/

theorem exec_accepted {i : Instr} {s : State} (hidle : s.pending = none) (h : checkCommand i s = .noError) :
    exec i s = .next (acceptedAs s i) := by
  rw [exec_idle hidle, acceptCommand_ok h]
  rfl

/-- An accepted SCAN completes with the packets and the remainder it finds (42_scan.md R182). -/
theorem exec_scan_acceptedAs {s : State} {P : List (Nat × Nat)} {rem : Nat × Nat}
    (hscan : findValidPackets (acceptedAs s .scan).scanInput = (P, rem)) :
    exec .scan (acceptedAs s .scan) = .next ((acceptedAs s .scan).complete
      { packets := P, rem := rem, value := 0
        flags := { valid := false, rangeFail := false, ovf := decide (s.params.pktMax < P.length) } }) := by
  rw [exec_pending rfl, resultsOf, scanResults, hscan]
  rfl

/-- The table after a completion: the packets it can hold, and the old entries elsewhere (42_scan.md R181). -/
theorem cellsGet_complete_desc (s : State) (r : Results) (k : Nat) :
    cellsGet (s.complete r).desc k =
      if k < min r.packets.length s.params.pktMax then
        (r.packets[k]?).map (fun q => { start := BitVec.ofNat 32 q.1, len := BitVec.ofNat 32 q.2 })
      else cellsGet s.desc k := by
  rw [State.complete_desc, cellsGet_storeDescs, List.length_take, Nat.min_comm]
  by_cases hk : k < min r.packets.length s.params.pktMax
  · have hmax : k < s.params.pktMax := hk.trans_le (Nat.min_le_right _ _)
    rw [if_pos ⟨Nat.zero_le k, by omega⟩, if_pos hk, Nat.sub_zero, List.getElem?_take_of_lt hmax]
  · rw [if_neg (by omega), if_neg hk]

end Sys2Proof.Machine
end

section
/-! SUPPORT. The proofs of the statements about the bounds of the scan and about SCAN: O22, O13. -/

namespace Sys2Proof.Claims

open Sys2Proof.Machine

/-- Settles O22: a pass makes progress, and the bounds follow by induction on the finished scan's passes. -/
theorem scanTerminatesWithinTheBuffer : Obligations.ScanTerminatesWithinTheBuffer := by
  unfold Obligations.ScanTerminatesWithinTheBuffer
  intro I hspec
  have hI : I.sized := sized_of_specLegal hspec
  have hrun := scanRun_findValidPackets hI
  exact ⟨fun _ _ _ hgoes => pass_progress hI hgoes, ⟨_, loop_eq_findValidPackets hI, rfl⟩,
    fun q hq => (hrun.packets_within hI q hq).2, hrun.starts_increase hI, hrun.length_add_le hI (Nat.zero_le I.n),
    fun _ hsame => findValidPackets_congr hsame⟩

/-- Settles O13: the checks in their order, then the completion with what the scan finds, which the bounds of R180
keep within the buffer. -/
theorem scanWritesPacketsAndRemainder : Obligations.ScanWritesPacketsAndRemainder := by
  unfold Obligations.ScanWritesPacketsAndRemainder
  refine ⟨decodeWord_encodeWord .scan, fun s hidle => ⟨fun hbuf => ?_, fun hbuf h0 => ?_, fun hbuf hpos hlong => ?_,
    fun hbuf hpos hfit hspec => ?_, fun hlegal => ?_⟩⟩
  · exact exec_refused hidle (checkCommand_eq_bufLenRange .scan hbuf) (by decide)
  · exact exec_refused hidle (checkCommand_scan_eq_emptyHeader hbuf h0) (by decide)
  · exact exec_refused hidle (checkCommand_scan_eq_hdrTooLong hbuf hpos hlong) (by decide)
  · have hsize : ¬ sizeChecked .scan s := mt (sizeChecked_scan_iff s).1 hspec
    exact exec_refused hidle (checkCommand_scan_eq_badCkSize hbuf hpos hfit hsize) (by decide)
  · have hcheck : checkCommand .scan s = .noError := checkCommand_scan_eq_noError hlegal
    obtain ⟨hbuf, -, -, hspec⟩ := hlegal
    rw [← spec_eq_specOf] at hspec
    have hI : (acceptedAs s .scan).scanInput.sized := sized_of_specLegal hspec
    have hrun := scanRun_findValidPackets hI
    rcases hscan : findValidPackets (acceptedAs s .scan).scanInput with ⟨P, r, l⟩
    rw [hscan] at hrun
    have hcount : P.length ≤ s.bufLen.toNat := hrun.length_add_le hI (Nat.zero_le _)
    refine ⟨P, r, l, _, rfl, exec_accepted hidle hcheck, exec_scan_acceptedAs hscan,
      by simp [State.complete, acceptedAs], cellsGet_complete_desc _ _, hcount, hrun.rem_add hI (Nat.zero_le _),
      fun q hq => ?_, fun hmax => decide_eq_false (by omega)⟩
    obtain ⟨-, hstart, -, hlen⟩ := hrun.packets_within hI q hq
    exact Nat.add_le_of_le_sub' hstart.le hlen

end Sys2Proof.Claims
end

section
/-! SUPPORT. What a step can do to the report and to CTRL, by its cause. -/

namespace Sys2Proof.Machine

open Sys2Proof.Claims

/-! ### Word writes of CTRL and STATUS -/

theorem step_write_ctrl {s : State} {v : Word} {rest : List Event}
    (h : s.schedule = .host (.write 0x010 .b4 v) :: rest) :
    step s = .next (({ s with schedule := rest, resp := { data := 0, error := false } } : State).writeCtrl v) :=
  step_write_register h rfl (by decide)

theorem step_write_status {s : State} {v : Word} {rest : List Event}
    (h : s.schedule = .host (.write 0x014 .b4 v) :: rest) :
    step s = .next (({ s with schedule := rest, resp := { data := 0, error := false } } : State).writeStatus v) :=
  step_write_register h rfl (by decide)

/-- ERRCODE goes with ERR (10_state.md R26). -/
theorem Status.clearedBy_clears_error {v : Word} (h : v.getLsbD 2 = true) (t : Status) :
    (t.clearedBy v).err = false ∧ (t.clearedBy v).errCode = .noError := by
  simp only [Status.clearedBy, h, Bool.not_true, Bool.and_false, if_true, and_self]

theorem Status.clearedBy_keeps_error {v : Word} (h : v.getLsbD 2 = false) (t : Status) :
    (t.clearedBy v).err = t.err ∧ (t.clearedBy v).errCode = t.errCode := by
  simp only [Status.clearedBy, h, Bool.not_false, Bool.and_true, Bool.false_eq_true, if_false, and_self]

/-! ### The causes of a change -/

/-- What a step from `s` to `t` does to STATUS and CTRL, with its cause. -/
inductive ReportChange (s t : State) : Prop
  /-- an access without effect on them, or the turn of an idle engine -/
  | kept (hstatus : t.status = s.status) (hctrl : t.ctrl = s.ctrl)
  /-- 10_state.md R24 -/
  | ctrlWrite (v : Word) (hwrite : nextWrites s 0x010 v) (hstatus : t.status = s.status)
      (hctrl : t.ctrl = Ctrl.ofWord v)
  /-- 10_state.md R26 -/
  | statusWrite (v : Word) (hwrite : nextWrites s 0x014 v) (hstatus : t.status = s.status.clearedBy v)
      (hctrl : t.ctrl = s.ctrl)
  /-- a write ignored during the busy phase, which changes nothing else of the block (60_exceptions.md R205) -/
  | ignoredWrite (x : Addr) (n : Size) (v : Word) (rest : List Event) (hbusy : s.busy = true)
      (hs : s.schedule = .host (.write x n v) :: rest) (herror : t.resp.error = false)
      (ht : t = { s with schedule := rest, resp := t.resp, status := { s.status with wbusy := true } })
  /-- 40_command.md R122 -/
  | accepted (v : Word) (hwrite : nextWrites s 0x018 v) (hidle : s.pending = none)
      (hstatus : t.status = { done := false, err := false, wbusy := s.status.wbusy, errCode := .noError })
      (hctrl : t.ctrl = s.ctrl)
  /-- 40_command.md R123 -/
  | refused (v : Word) (hwrite : nextWrites s 0x018 v) (hidle : s.pending = none) (c : ErrCode)
      (hstatus : t.status = { done := true, err := true, wbusy := s.status.wbusy, errCode := c })
      (hctrl : t.ctrl = s.ctrl)
  /-- 40_command.md R125 -/
  | completed (hturn : nextEngine s) (hbusy : s.busy = true) (hstatus : t.status = { s.status with done := true })
      (hctrl : t.ctrl = s.ctrl)
  /-- 70_reset_and_hazards.md R230 -/
  | reset (hreset : nextResets s)
      (hstatus : t.status = { done := false, err := false, wbusy := false, errCode := .noError })
      (hctrl : t.ctrl = { ie := false, adv := false, tail := false })

/-- Registers take word accesses only (20_memory.md R72). -/
theorem size_eq_b4_of_accessOk {x : Addr} {n : Size} (hok : accessOk x.toNat n = true) (hx : x.toNat < 0x100) :
    n = .b4 := by
  by_contra hn
  simp [(accessOk_eq_false_iff x n).2 (.inr ⟨.inl hx, hn⟩)] at hok

/-- On an idle block a write to a target other than CTRL, STATUS and CMD reaches neither STATUS nor CTRL. -/
theorem writeData_keeps_report {s t : State} {x : Nat} {n : Size} {v : Word} (hidle : s.busy = false)
    (hx : x ≠ 0x010 ∧ x ≠ 0x014 ∧ x ≠ 0x018) (h : writeData x n v s = .next t) :
    t.status = s.status ∧ t.ctrl = s.ctrl := by
  obtain ⟨hctrl, hstatus, hcmd⟩ := hx
  by_cases hcfg : configOffset x
  · obtain ⟨r, hr⟩ := writeData_of_configOffset hcfg n v s
    cases hr.symm.trans h
    simp [State.writeConfig, hidle]
  by_cases hwin : inWindow x
  · cases (writeData_of_inWindow hwin n v s).symm.trans h
    simp [State.writeWindow, hidle]
  · cases (writeData_of_other (by simp [*]) n v s).symm.trans h
    exact ⟨rfl, rfl⟩

section Write

variable {s t : State} {rest : List Event}

theorem reportChange_of_write_cmd {v : Word} (hs : s.schedule = .host (.write 0x018 .b4 v) :: rest)
    (hstep : step s = .next t) : ReportChange s t := by
  rw [step_write_cmd hs] at hstep
  cases hb : s.busy with
  | true =>
    cases (cmdWrite_of_busy (by exact hb) v).symm.trans hstep
    exact .ignoredWrite _ _ v rest hb hs rfl rfl
  | false =>
    have hidle := busy_eq_false_iff.1 hb
    by_cases hcheck : checkWord v { s with schedule := rest, resp := { data := 0, error := false } } = .noError
    · obtain ⟨i, -, hi⟩ := cmdWrite_of_checkWord_eq_noError (by exact hb) hcheck
      cases hi.symm.trans hstep
      exact .accepted v ⟨rest, hs⟩ hidle rfl rfl
    · cases (cmdWrite_of_checkWord_ne_noError (by exact hb) hcheck).symm.trans hstep
      exact .refused v ⟨rest, hs⟩ hidle _ rfl rfl

theorem reportChange_of_write {x : Addr} {n : Size} {v : Word} (hs : s.schedule = .host (.write x n v) :: rest)
    (hok : accessOk x.toNat n = true) (hstep : step s = .next t) : ReportChange s t := by
  have hword := size_eq_b4_of_accessOk hok
  by_cases hctrl : x = 0x010
  · obtain rfl := hctrl
    obtain rfl := hword (by decide)
    cases (step_write_ctrl hs).symm.trans hstep
    exact .ctrlWrite v ⟨rest, hs⟩ rfl rfl
  by_cases hstatus : x = 0x014
  · obtain rfl := hstatus
    obtain rfl := hword (by decide)
    cases (step_write_status hs).symm.trans hstep
    exact .statusWrite v ⟨rest, hs⟩ rfl rfl
  by_cases hcmd : x = 0x018
  · obtain rfl := hcmd
    obtain rfl := hword (by decide)
    exact reportChange_of_write_cmd hs hstep
  have hx : x.toNat ≠ 0x010 ∧ x.toNat ≠ 0x014 ∧ x.toNat ≠ 0x018 := by bv_omega
  have hdata : writeData x.toNat n v (({ s with schedule := rest } : State).respond 0 false) = .next t :=
    (hostWrite_of_accessOk hok v _).symm.trans ((step_of_schedule hs).symm.trans hstep)
  cases hb : s.busy with
  | false =>
    obtain ⟨hkeep, hkeepCtrl⟩ := writeData_keeps_report (by exact hb) hx hdata
    exact .kept hkeep hkeepCtrl
  | true =>
    by_cases htarget : configOffset x.toNat ∨ inWindow x.toNat
    · cases (writeData_of_busy (by exact hb) (.inr htarget) n v).symm.trans hdata
      exact .ignoredWrite x n v rest hb hs rfl rfl
    · cases (writeData_of_other (by tauto) n v _).symm.trans hdata
      exact .kept rfl rfl

end Write

/-- Everything a step can do to STATUS and CTRL. -/
theorem reportChange_of_step {s t : State} (hstep : step s = .next t) : ReportChange s t := by
  obtain ⟨a, rest, hs, haccess⟩ | ⟨i, hi, hturn, rfl⟩ | ⟨-, -, rfl⟩ | ⟨rest, hs, rfl⟩ := step_cases hstep
  · cases a with
    | read x n =>
      cases haccess
      unfold hostRead
      split
      · exact .kept rfl rfl
      · exact .kept rfl rfl
    | write x n v =>
      cases hok : accessOk x.toNat n with
      | true => exact reportChange_of_write hs hok hstep
      | false =>
        cases (hostWrite_of_not_accessOk hok v _).symm.trans haccess
        exact .kept rfl rfl
  · exact .completed hturn (busy_eq_true_iff.2 ⟨i, hi⟩) rfl rfl
  · exact .kept rfl rfl
  · exact .reset ⟨rest, hs⟩ rfl rfl

/-! ### What raises and lowers DONE and IE -/

section Change

variable {s t : State} (h : ReportChange s t)

include h

/-- DONE rises with a completion alone (60_exceptions.md R209). -/
theorem ReportChange.done_rises (hs : s.status.done = false) (ht : t.status.done = true) :
    (nextEngine s ∧ s.busy = true) ∨ (∃ v, nextWrites s 0x018 v ∧ s.busy = false ∧ t.status.err = true) := by
  cases h with
  | completed hturn hbusy => exact .inl ⟨hturn, hbusy⟩
  | refused v hwrite hidle c hstatus => exact .inr ⟨v, hwrite, busy_eq_false_iff.2 hidle, by rw [hstatus]⟩
  | ignoredWrite x n v rest hbusy hsched herror heq =>
    rw [heq] at ht
    simp [hs] at ht
  | kept hstatus | ctrlWrite v hwrite hstatus | statusWrite v hwrite hstatus | accepted v hwrite hidle hstatus
  | reset hreset hstatus => simp [hstatus, Status.clearedBy, hs] at ht

theorem ReportChange.done_falls (hs : s.status.done = true) (ht : t.status.done = false) :
    (∃ v, nextWrites s 0x014 v ∧ v.getLsbD 1 = true) ∨ (∃ v, nextWrites s 0x018 v ∧ s.busy = false) ∨
      nextResets s := by
  cases h with
  | statusWrite v hwrite hstatus => exact .inl ⟨v, hwrite, by simpa [hstatus, Status.clearedBy, hs] using ht⟩
  | accepted v hwrite hidle | refused v hwrite hidle => exact .inr (.inl ⟨v, hwrite, busy_eq_false_iff.2 hidle⟩)
  | reset hreset => exact .inr (.inr hreset)
  | ignoredWrite x n v rest hbusy hsched herror heq =>
    rw [heq] at ht
    simp [hs] at ht
  | kept hstatus | ctrlWrite v hwrite hstatus | completed hturn hbusy hstatus => simp [hstatus, hs] at ht

/-- IE changes with a CTRL write or a reset alone, and a reset clears it. -/
theorem ReportChange.ie_cases :
    t.ctrl.ie = s.ctrl.ie ∨ (∃ v, nextWrites s 0x010 v ∧ v.getLsbD 0 = t.ctrl.ie) ∨
      (nextResets s ∧ t.ctrl.ie = false) := by
  cases h with
  | ctrlWrite v hwrite hstatus hctrl => exact .inr (.inl ⟨v, hwrite, by rw [hctrl]; rfl⟩)
  | reset hreset hstatus hctrl => exact .inr (.inr ⟨hreset, by rw [hctrl]⟩)
  | ignoredWrite x n v rest hbusy hs herror heq => exact .inl (by rw [heq])
  | kept hstatus hctrl | statusWrite v hwrite hstatus hctrl | accepted v hwrite hidle hstatus hctrl
  | refused v hwrite hidle c hstatus hctrl | completed hturn hbusy hstatus hctrl => exact .inl (by rw [hctrl])

end Change

end Sys2Proof.Machine
end

section
/-! SUPPORT. The proofs of the statements about the report and the interrupt: O7, O35, O37, O38. -/

namespace Sys2Proof.Claims

open Sys2Proof.Machine

/-- Settles O7: it is the refusal clause of the command procedure, after which DONE is set and IE is as before. -/
theorem lowestFailingCheckIsReported : Obligations.LowestFailingCheckIsReported := by
  unfold Obligations.LowestFailingCheckIsReported
  intro s w k rest hidle hs hk hmin
  obtain ⟨t, hstep, hresp, -, -, hrefuse⟩ := commandWriteFollowsItsProcedure s w rest hs
  obtain ⟨c, hc, ht⟩ := hrefuse k hidle hk hmin
  have hirq : t.irq = s.ctrl.ie := by
    rw [ht]
    simp [State.irq, refusedWith]
  exact ⟨t, c, hstep, hc, hresp, ht, hirq⟩

/-- Settles O35: of the causes that change STATUS, an ignored write and a completion leave the error, and the others
are its three ends. -/
theorem errorStaysReported : Obligations.ErrorStaysReported := by
  unfold Obligations.ErrorStaysReported
  intro s t hstep herr
  cases reportChange_of_step hstep with
  | kept hstatus | ctrlWrite v hwrite hstatus | completed hturn hbusy hstatus =>
    exact .inl (by simp [hstatus, herr])
  | ignoredWrite x n v rest hbusy hs herror heq =>
    rw [heq]
    exact .inl ⟨herr, rfl⟩
  | statusWrite v hwrite hstatus =>
    cases hbit : v.getLsbD 2 with
    | true => exact .inr (.inl ⟨v, hwrite, hbit, by rw [hstatus]; exact Status.clearedBy_clears_error hbit _⟩)
    | false =>
      obtain ⟨hkeep, hcode⟩ := Status.clearedBy_keeps_error hbit s.status
      rw [hstatus]
      exact .inl ⟨hkeep.trans herr, hcode⟩
  | accepted v hwrite hidle hstatus => exact .inr (.inr (.inl ⟨v, hwrite, hidle, .inl hstatus⟩))
  | refused v hwrite hidle c hstatus => exact .inr (.inr (.inl ⟨v, hwrite, hidle, .inr ⟨c, hstatus⟩⟩))
  | reset hreset hstatus => exact .inr (.inr (.inr ⟨hreset, by simp [hstatus]⟩))

/-- Settles O37: of the causes that change STATUS only the ignored write sets WBUSY, and only a STATUS write and a reset
can clear it. -/
theorem wbusyRecordsIgnoredWrites : Obligations.WbusyRecordsIgnoredWrites := by
  unfold Obligations.WbusyRecordsIgnoredWrites
  intro s t hstep
  cases reportChange_of_step hstep with
  | ignoredWrite x n v rest hbusy hs herror heq =>
    refine ⟨fun _ _ => ⟨hbusy, x, n, v, rest, hs, herror, heq⟩, fun _ hclear => ?_⟩
    rw [heq] at hclear
    cases hclear
  | statusWrite v hwrite hstatus =>
    refine ⟨fun hclear hset => ?_, fun hset hclear => .inl ⟨v, hwrite, ?_⟩⟩
    · simp [hstatus, Status.clearedBy, hclear] at hset
    · simpa [hstatus, Status.clearedBy, hset] using hclear
  | reset hreset hstatus => exact ⟨fun _ hset => by simp [hstatus] at hset, fun _ _ => .inr hreset⟩
  | kept hstatus | ctrlWrite v hwrite hstatus | accepted v hwrite hidle hstatus
  | refused v hwrite hidle c hstatus | completed hturn hbusy hstatus =>
    have hsame : t.status.wbusy = s.status.wbusy := by rw [hstatus]
    exact ⟨fun hclear hset => by simp [hsame, hclear] at hset, fun hset hclear => by simp [hsame, hset] at hclear⟩

/-- Settles O38: `irq` is a conjunction, so it rises with DONE or IE and falls with one of them. -/
theorem irqFollowsDoneAndEnable : Obligations.IrqFollowsDoneAndEnable := by
  unfold Obligations.IrqFollowsDoneAndEnable
  have hformula (s : State) : s.irq = true ↔ s.ctrl.ie = true ∧ s.status.done = true := by simp [State.irq]
  refine ⟨hformula, fun s t hstep => ?_⟩
  have hchange := reportChange_of_step hstep
  refine ⟨fun hlow hhigh => ?_, fun hhigh hlow => ?_, ?_, hchange.done_rises, hchange.done_falls⟩
  · obtain ⟨hie, hdone⟩ := (hformula t).1 hhigh
    cases hdone' : s.status.done with
    | false => exact (hchange.done_rises hdone' hdone).imp_right .inl
    | true =>
      have hie' : s.ctrl.ie = false := by simpa [State.irq, hdone'] using hlow
      obtain hsame | ⟨v, hwrite, hbit⟩ | ⟨-, hreset⟩ := hchange.ie_cases
      · simp [hie, hie'] at hsame
      · exact .inr (.inr ⟨v, hwrite, hbit.trans hie⟩)
      · simp [hie] at hreset
  · obtain ⟨hie, hdone⟩ := (hformula s).1 hhigh
    cases hdone' : t.status.done with
    | false => exact (hchange.done_falls hdone hdone').imp_right .inr
    | true =>
      have hie' : t.ctrl.ie = false := by simpa [State.irq, hdone'] using hlow
      obtain hsame | ⟨v, hwrite, hbit⟩ | ⟨hreset, -⟩ := hchange.ie_cases
      · simp [hie, hie'] at hsame
      · exact .inr (.inl ⟨v, hwrite, hbit.trans hie'⟩)
      · exact .inr (.inr (.inr hreset))
  · rintro hdone ⟨v, ⟨rest, hs⟩, hbit⟩
    cases (step_write_ctrl hs).symm.trans hstep
    exact (hformula _).2 ⟨hbit, hdone⟩

end Sys2Proof.Claims
end

section
/-! SUPPORT. The invariant, part by part, under each effect of a write and under a completion. -/

namespace Sys2Proof.Machine

open Sys2Proof.Claims

/-! ### The effects of a write -/

theorem acceptCommand_cases (i : Instr) (s : State) :
    (checkCommand i s = .noError ∧ acceptCommand i s = acceptedAs s i) ∨
      (checkCommand i s ≠ .noError ∧ acceptCommand i s = refusedWith s (checkCommand i s)) := by
  by_cases h : checkCommand i s = .noError
  · exact .inl ⟨h, acceptCommand_ok h⟩
  · exact .inr ⟨h, acceptCommand_error h⟩

/-- A STATUS write clears ERRCODE with ERR, so the report stays consistent (10_state.md R25, R26). -/
theorem statusConsistent_writeStatus {s : State} (h : s.statusConsistent) (v : Word) :
    (s.writeStatus v).statusConsistent := by
  obtain ⟨hbusy, herr⟩ := h
  refine ⟨fun hb => ?_, ?_⟩
  · obtain ⟨hdone, hnoerr⟩ := hbusy hb
    simp [Status.clearedBy, hdone, hnoerr]
  · cases hbit : v.getLsbD 2 with
    | true => simp [Status.clearedBy_clears_error hbit]
    | false =>
      obtain ⟨hkeep, hcode⟩ := Status.clearedBy_keeps_error hbit s.status
      rwa [State.writeStatus_status, hkeep, hcode]

theorem statusConsistent_refusedWith {s : State} (hidle : s.pending = none) {c : ErrCode} (hc : c ≠ .noError) :
    (refusedWith s c).statusConsistent := by
  have hb : (refusedWith s c).busy = false := busy_eq_false_iff.2 hidle
  exact ⟨fun hbusy => by simp [hb] at hbusy, iff_of_false nofun hc⟩

theorem statusConsistent_acceptedAs (s : State) (i : Instr) : (acceptedAs s i).statusConsistent := by
  simp [State.statusConsistent, acceptedAs]

theorem WriteEffect.keeps_inv {s t : State} (h : WriteEffect s t) (hinv : s.Inv) : t.Inv := by
  obtain ⟨hlegal, hstatus, hchecked, hstorage, hresults⟩ := hinv
  cases h with
  | nothing | ignored | ctrl => exact ⟨hlegal, hstatus, hchecked, hstorage, hresults⟩
  | status v => exact ⟨hlegal, statusConsistent_writeStatus hstatus v, hchecked, hstorage, hresults⟩
  | config hidle r v =>
    have hnone := busy_eq_false_iff.1 hidle
    exact ⟨by simpa using hlegal, by simpa [State.statusConsistent] using hstatus, by simp [State.pendingChecked, hnone],
      by simpa [State.storageConsistent] using hstorage, by simpa [State.resultsConsistent] using hresults⟩
  | window hidle x bs =>
    have hnone := busy_eq_false_iff.1 hidle
    obtain ⟨hwf, hwithin, hrise, hdesc⟩ := hstorage
    exact ⟨by simpa using hlegal, by simpa [State.statusConsistent, State.busy] using hstatus,
      by simp [State.pendingChecked, hnone],
      ⟨State.writeBytes_mem_wf hwf x bs, by simpa using State.writeBytes_mem_within hwithin x bs,
        by simpa using hrise, by simpa using hdesc⟩,
      by simpa [State.resultsConsistent] using hresults⟩
  | command hidle i =>
    obtain ⟨hcheck, heq⟩ | ⟨hcheck, heq⟩ := acceptCommand_cases i s
    · rw [heq]
      have hchecked' : (acceptedAs s i).pendingChecked := by
        intro j hj
        cases hj
        exact hcheck
      exact ⟨hlegal, statusConsistent_acceptedAs s i, hchecked', hstorage, hresults⟩
    · rw [heq]
      exact ⟨hlegal, statusConsistent_refusedWith (busy_eq_false_iff.1 hidle) hcheck, hchecked, hstorage, hresults⟩
  | illegal hidle =>
    exact ⟨hlegal, statusConsistent_refusedWith (c := .illegalCmd) (busy_eq_false_iff.1 hidle) nofun, hchecked,
      hstorage, hresults⟩

theorem hostAccess_keeps_inv {a : Access} {s t : State} (hinv : s.Inv) (h : hostAccess a s = .next t) : t.Inv := by
  obtain ⟨u, hu, hcases⟩ := hostAccess_cases a s
  cases hu.symm.trans h
  obtain ⟨r, rfl | rfl⟩ | heffect := hcases
  · exact hinv
  · exact hinv
  · exact heffect.keeps_inv hinv

/-! ### The completion -/

theorem resultsOf_rangeFail {i : Instr} {s : State} (h : (resultsOf i s).flags.rangeFail = true) :
    (resultsOf i s).flags.valid = false := by
  cases i with
  | validate => exact valid_eq_false_of_rangeFail h
  | scan | xorsum | addsum | b2u => rfl

/-- Only SCAN reports packets, and no more than the buffer has bytes (42_scan.md R180). -/
theorem resultsOf_packets_length_le {i : Instr} {s : State} (hcheck : checkCommand i s = .noError) :
    (resultsOf i s).packets.length ≤ s.bufLen.toNat := by
  obtain ⟨-, -, hsize, -⟩ := checkCommand_noError_iff.1 hcheck
  cases i with
  | scan =>
    have hspec : specLegal s.scanInput.spec := by
      rw [State.scanInput, spec_eq_specOf]
      exact (sizeChecked_scan_iff s).1 hsize
    have hI := sized_of_specLegal hspec
    exact (scanRun_findValidPackets hI).length_add_le hI (Nat.zero_le _)
  | xorsum | addsum | b2u | validate => exact Nat.zero_le _

/-- The entries a completion writes are below PKT_MAX (42_scan.md R181). -/
theorem storageConsistent_complete {s : State} (h : s.storageConsistent) (r : Results) :
    (s.complete r).storageConsistent := by
  obtain ⟨hwf, hwithin, hrise, hdesc⟩ := h
  refine ⟨hwf, hwithin, cellsRiseFrom_storeDescs 0 _ hrise, fun d hd => ?_⟩
  obtain hd | ⟨-, hlt⟩ := mem_storeDescs hd
  · exact hdesc d hd
  · rw [List.length_take, Nat.zero_add] at hlt
    exact hlt.trans_le (Nat.min_le_left _ _)

theorem complete_keeps_inv {s : State} {i : Instr} (hinv : s.Inv) (hi : s.pending = some i) :
    (s.complete (resultsOf i s)).Inv := by
  obtain ⟨hlegal, ⟨-, herr⟩, hchecked, hstorage, -⟩ := hinv
  have hcheck := hchecked i hi
  have hcount : (resultsOf i s).packets.length ≤ s.params.bufMax :=
    (resultsOf_packets_length_le hcheck).trans (checkCommand_noError_iff.1 hcheck).1
  exact ⟨hlegal, ⟨nofun, herr⟩, nofun, storageConsistent_complete hstorage _,
    resultsOf_rangeFail, (Nat.mod_le _ _).trans hcount⟩

/-! ### The reset -/

theorem resetOf_inv {p : Params} (h : p.legal = true) : (State.resetOf p).Inv :=
  ⟨h, ⟨nofun, iff_of_true rfl rfl⟩, nofun, ⟨rfl, rfl, rfl, nofun⟩, nofun, Nat.zero_le _⟩

end Sys2Proof.Machine
end

section
/-! SUPPORT. The proofs of the statements about the invariant: O28, O27. -/

namespace Sys2Proof.Claims

open Sys2Proof.Machine

/-- Settles O28: of the cases of `step_cases` a host access keeps the invariant by its one effect, the completion because
the checks of the running command still hold, and a reset starts it anew. -/
theorem everyStepKeepsTheInvariant : Obligations.EveryStepKeepsTheInvariant := by
  unfold Obligations.EveryStepKeepsTheInvariant
  intro s t hinv hstep
  have hpop : s.popEvent.Inv := hinv
  obtain ⟨hlegal, -⟩ := hinv
  obtain ⟨a, rest, -, haccess⟩ | ⟨i, hi, -, rfl⟩ | ⟨-, -, rfl⟩ | ⟨rest, -, rfl⟩ := step_cases hstep
  · exact hostAccess_keeps_inv hpop haccess
  · exact complete_keeps_inv hpop hi
  · exact hpop
  · exact resetOf_inv hlegal

/-- Settles O27: the reset state holds nothing that a build could limit. -/
theorem resetMeetsTheInvariant : Obligations.ResetMeetsTheInvariant := by
  unfold Obligations.ResetMeetsTheInvariant
  exact ⟨resetOf_inv rfl, fun _ => resetOf_inv⟩

end Sys2Proof.Claims
end

section
/-! SUPPORT. The words of the opcode map, their fields, and the byte strings that hold them. -/

namespace Sys2Proof

/-- A word decodes to a command exactly when it is that command's word (30_encoding.md R101). -/
theorem decodeWord_eq_ok_iff (w : Word) (i : Instr) : decodeWord w = .ok i ↔ w = encodeWord i := by
  constructor
  · intro h
    obtain ⟨j, rfl⟩ | hillegal := eq_encodeWord_or_illegal w
    · cases (decodeWord_encodeWord j).symm.trans h
      rfl
    · cases ((decodeWord_eq_error_iff_not_command w).2 hillegal).symm.trans h
  · rintro rfl
    exact decodeWord_encodeWord i

theorem exists_decodeWord_eq_ok_iff (w : Word) :
    (∃ i, decodeWord w = .ok i) ↔ w = 1 ∨ w = 2 ∨ w = 3 ∨ w = 4 ∨ w = 5 := by
  simp only [decodeWord_eq_ok_iff]
  constructor
  · rintro ⟨i, rfl⟩
    cases i <;> simp [encodeWord]
  · intro h
    exact (eq_encodeWord_or_illegal w).resolve_right (not_not.2 h)

/-! ### The fields of a word -/

theorem Cmd32.toWord_ofWord (w : Word) : (Cmd32.ofWord w).toWord = w := BitVec.extractLsb'_append_extractLsb'

/-- The checks on the two fields together bound the word (30_encoding.md R100, R101). -/
theorem Cmd32.wf_ofWord_iff (w : Word) : (Cmd32.ofWord w).wf = true ↔ 1 ≤ w.toNat ∧ w.toNat ≤ 5 := by
  have hw := w.isLt
  have hreserved : (w.extractLsb' 8 24).toNat = w.toNat / 256 % 2 ^ 24 := by
    rw [BitVec.extractLsb'_toNat, Nat.shiftRight_eq_div_pow]
  have hop : (w.extractLsb' 0 8).toNat = w.toNat % 256 := by
    rw [BitVec.extractLsb'_toNat, Nat.shiftRight_zero]
  have hzero : (0 : BitVec 24).toNat = 0 := rfl
  simp only [Cmd32.wf, Cmd32.reservedClear, Cmd32.opDefined, Cmd32.ofWord, Bool.and_eq_true, beq_iff_eq,
    decide_eq_true_eq, BitVec.toNat_eq, hreserved, hop, hzero]
  omega

/-! ### The bytes of a word (20_memory.md R74) -/

theorem bytesOfWord_wordOfBytes (b0 b1 b2 b3 : Byte) : bytesOfWord (wordOfBytes b0 b1 b2 b3) = [b0, b1, b2, b3] := by
  have h0 : (wordOfBytes b0 b1 b2 b3).extractLsb' 0 8 = b0 :=
    BitVec.extractLsb'_append_eq_right (a := b3 ++ b2 ++ b1)
  have h1 : (wordOfBytes b0 b1 b2 b3).extractLsb' 8 8 = b1 :=
    (BitVec.extractLsb'_append_eq_of_le (xhi := b3 ++ b2 ++ b1) (xlo := b0) (by decide)).trans
      (BitVec.extractLsb'_append_eq_right (a := b3 ++ b2))
  have h2 : (wordOfBytes b0 b1 b2 b3).extractLsb' 16 8 = b2 :=
    (BitVec.extractLsb'_append_eq_of_le (xhi := b3 ++ b2 ++ b1) (xlo := b0) (by decide)).trans
      ((BitVec.extractLsb'_append_eq_of_le (xhi := b3 ++ b2) (xlo := b1) (by decide)).trans
        BitVec.extractLsb'_append_eq_right)
  have h3 : (wordOfBytes b0 b1 b2 b3).extractLsb' 24 8 = b3 :=
    (BitVec.extractLsb'_append_eq_of_le (xhi := b3 ++ b2 ++ b1) (xlo := b0) (by decide)).trans
      ((BitVec.extractLsb'_append_eq_of_le (xhi := b3 ++ b2) (xlo := b1) (by decide)).trans
        BitVec.extractLsb'_append_eq_left)
  rw [bytesOfWord, h0, h1, h2, h3]

theorem decodeBytes_bytesOfWord (w : Word) : decodeBytes (bytesOfWord w) = decodeWord w := by
  have hword : wordOfBytes (w.extractLsb' 0 8) (w.extractLsb' 8 8) (w.extractLsb' 16 8) (w.extractLsb' 24 8) = w := by
    have h16 : w.extractLsb' 24 8 ++ w.extractLsb' 16 8 = w.extractLsb' 16 16 :=
      BitVec.extractLsb'_append_extractLsb'_eq_extractLsb' rfl
    have h8 : w.extractLsb' 16 16 ++ w.extractLsb' 8 8 = w.extractLsb' 8 24 :=
      BitVec.extractLsb'_append_extractLsb'_eq_extractLsb' rfl
    rw [wordOfBytes, h16, h8]
    exact BitVec.extractLsb'_append_extractLsb'
  rw [bytesOfWord, decodeBytes, hword]

/-- Four bytes are the bytes of some word, and only four bytes decode to a command (30_encoding.md R100). -/
theorem exists_eq_bytesOfWord {bs : List Byte} (h : bs.length = 4) : ∃ w, bs = bytesOfWord w := by
  obtain ⟨b0, b1, b2, b3, rfl⟩ := List.length_eq_four.1 h
  exact ⟨_, (bytesOfWord_wordOfBytes b0 b1 b2 b3).symm⟩

theorem length_eq_four_of_decodeBytes {bs : List Byte} {i : Instr} (h : decodeBytes bs = .ok i) : bs.length = 4 := by
  unfold decodeBytes at h
  split at h
  · rfl
  · cases h

end Sys2Proof
end

section
/-! SUPPORT. The proofs of the statements about the encoding: O1, O2, O3. -/

namespace Sys2Proof.Claims

open Sys2Proof.Machine

/-- Settles O1: a word decodes to a command exactly when it is its word. -/
theorem eachCommandHasExactlyItsWord : Obligations.EachCommandHasExactlyItsWord := by
  unfold Obligations.EachCommandHasExactlyItsWord
  intro w i
  rw [decodeWord_eq_ok_iff]
  cases i <;> simp [encodeWord]

/-- Settles O2: a byte string of length four is the bytes of one word, whose decoding O1 gives. -/
theorem decodingInvertsEncodingOnAllBytes : Obligations.DecodingInvertsEncodingOnAllBytes := by
  unfold Obligations.DecodingInvertsEncodingOnAllBytes
  refine ⟨fun i _ => ?_, fun bs i h => ?_, fun bs hlen hnone => ?_⟩
  · exact (decodeBytes_bytesOfWord _).trans (decodeWord_encodeWord i)
  · obtain ⟨w, rfl⟩ := exists_eq_bytesOfWord (length_eq_four_of_decodeBytes h)
    rw [decodeBytes_bytesOfWord, decodeWord_eq_ok_iff] at h
    exact congrArg bytesOfWord h
  · obtain ⟨w, rfl⟩ := exists_eq_bytesOfWord hlen
    rw [decodeBytes_bytesOfWord, decodeWord_eq_error_iff_not_command, ← exists_decodeWord_eq_ok_iff]
    rintro ⟨i, hi⟩
    exact hnone i (congrArg bytesOfWord ((decodeWord_eq_ok_iff w i).1 hi))

/-- Settles O3: the two fields cover the word, so bounding both bounds the word by the five. -/
theorem wellFormedFieldsAreTheDecodableWords : Obligations.WellFormedFieldsAreTheDecodableWords := by
  unfold Obligations.WellFormedFieldsAreTheDecodableWords
  refine fun w => ⟨Cmd32.toWord_ofWord w, ?_⟩
  rw [Cmd32.wf_ofWord_iff, exists_decodeWord_eq_ok_iff]
  bv_omega

end Sys2Proof.Claims
end

section
/-! SUPPORT. The accumulator that wraps, and the bound on a byte sequence's number. -/

namespace Sys2Proof.Machine

open Sys2Proof.Claims

/-- An accumulator that wraps after every addition keeps the sum modulo its range (41_checksum.md R141). -/
theorem foldl_add_mod (b : List Byte) (m a : Nat) :
    b.foldl (fun acc x => (acc + x.toNat) % m) (a % m) = (a + sumOf b) % m := by
  induction b generalizing a with
  | nil => rfl
  | cons x b ih =>
    have hsum : sumOf (x :: b) = x.toNat + sumOf b := by simp [sumOf]
    rw [List.foldl_cons, Nat.mod_add_mod, ih, hsum, Nat.add_assoc]

theorem addChecksum_lt {size : Nat} (b : List Byte) (h : size ≤ 8) : addChecksum b size < 2 ^ 64 :=
  (Nat.mod_lt _ (Nat.two_pow_pos _)).trans_le (Nat.pow_le_pow_right (by decide) (by omega))

theorem bytesToUint_lt (b : List Byte) (e : Endian) : bytesToUint b e < 2 ^ (8 * b.length) := by
  cases e with
  | big => exact beNat_lt b
  | little => exact leNat_lt b

end Sys2Proof.Machine
end

section
/-! SUPPORT. The proofs of the statements about the sum and the integer of a byte sequence: O17, O18. -/

namespace Sys2Proof.Claims

open Sys2Proof.Machine

/-- Settles O17: a wider accumulator's range is a multiple of the checksum's, so wrapping loses nothing of it. -/
theorem addChecksumIsTheSumModulo : Obligations.AddChecksumIsTheSumModulo := by
  unfold Obligations.AddChecksumIsTheSumModulo
  intro b size _ hle
  refine ⟨addChecksum_eq_sumOf_mod b size, addChecksum_lt b hle, fun w hw => ?_⟩
  have hwrap := foldl_add_mod b (2 ^ w) 0
  rw [Nat.zero_mod, Nat.zero_add] at hwrap
  rw [hwrap, Nat.mod_mod_of_dvd _ (Nat.pow_dvd_pow 2 hw), addChecksum_eq_sumOf_mod]

/-- Settles O18: both byte orders are the statement's sums, and each byte adds eight bits to the bound. -/
theorem bytesToUintIsThePositionalSum : Obligations.BytesToUintIsThePositionalSum := by
  unfold Obligations.BytesToUintIsThePositionalSum
  exact fun b e => ⟨bytesToUint_eq_uintOf b e, bytesToUint_lt b e⟩

end Sys2Proof.Claims
end

section
/-! SUPPORT. What a step answers, by the event that comes next. -/

namespace Sys2Proof.Machine

/-- A table word that decodes to a command is that command's word (30_encoding.md R101). -/
theorem decodeWord_of_decodeTableWord {nbits w : Nat} {i : Instr} (h : decodeTableWord nbits w = some i) :
    decodeWord (BitVec.ofNat 32 (w % 2 ^ nbits)) = .ok i := by
  simp only [decodeTableWord, decodeBytes_bytesOfWord] at h
  split at h
  · split at h
    · cases h
      assumption
    · cases h
  · cases h

theorem step_write_cmd_of_decodeWord {s : State} {w : Word} {i : Instr} {rest : List Event}
    (h : s.schedule = .host (.write 0x018 .b4 w) :: rest) (hidle : s.pending = none) (hw : decodeWord w = .ok i) :
    step s = exec i { s with schedule := rest, resp := { data := 0, error := false } } := by
  rw [step_write_cmd h, cmdWrite, if_neg, hw]
  simp [State.busy, hidle]

/-- A read without error answers the data of the state it finds, and counts a draw (20_memory.md R74, R80). -/
theorem step_read {s : State} {x : Addr} {n : Size} {rest : List Event} (h : s.schedule = .host (.read x n) :: rest)
    (hok : accessOk x.toNat n = true) :
    step s = .next { s with
      schedule := rest, resp := { data := s.readData x.toNat n, error := false }, draws := s.draws + 1 } :=
  (step_of_schedule h).trans (congrArg Host.Outcome.next (hostRead_of_accessOk hok _))

/-- A write without error is answered, and then reaches its target. -/
theorem step_write {s : State} {x : Addr} {n : Size} {v : Word} {rest : List Event}
    (h : s.schedule = .host (.write x n v) :: rest) (hok : accessOk x.toNat n = true) :
    step s = writeData x.toNat n v { s with schedule := rest, resp := { data := 0, error := false } } :=
  (step_of_schedule h).trans (hostWrite_of_accessOk hok v _)

theorem step_unscheduled {s : State} (h : s.schedule = []) : step s = engineStep s := by
  simp [step, h]

theorem engineStep_pending {s : State} {i : Instr} (h : s.pending = some i) : engineStep s = exec i s := by
  simp [engineStep, h]

/-- A step answers a next state unless an access during reset is due (70_reset_and_hazards.md R230). -/
theorem step_outcome (s : State) :
    (∃ a rest, s.schedule = .hostInReset a :: rest ∧ step s = .fault .accessDuringReset) ∨
      (∃ t, step s = .next t ∧ ∀ a rest, s.schedule ≠ .hostInReset a :: rest) := by
  have hengine (u : State) : ∃ t, engineStep u = .next t := by
    obtain ⟨-, h⟩ | ⟨i, -, h⟩ := engineStep_cases u <;> exact ⟨_, h⟩
  cases hs : s.schedule with
  | nil =>
    obtain ⟨t, ht⟩ := hengine s
    exact .inr ⟨t, (step_unscheduled hs).trans ht, nofun⟩
  | cons e rest =>
    rw [step_of_schedule hs]
    cases e with
    | host a =>
      obtain ⟨t, ht, -⟩ := hostAccess_cases a { s with schedule := rest }
      exact .inr ⟨t, ht, nofun⟩
    | engine =>
      obtain ⟨t, ht⟩ := hengine { s with schedule := rest }
      exact .inr ⟨t, ht, nofun⟩
    | reset => exact .inr ⟨_, rfl, nofun⟩
    | hostInReset a => exact .inl ⟨a, rest, rfl, rfl⟩

end Sys2Proof.Machine
end

section
/-! SUPPORT. The proofs of the statements about what a step runs and what stops the machine: O4, O5, O29, O43, O51. -/

namespace Sys2Proof.Claims

open Sys2Proof.Machine

/-- Settles O4: the write reaches CMD, and the idle block decodes its word. -/
theorem stepRunsTheDecodedCommand : Obligations.StepRunsTheDecodedCommand := by
  unfold Obligations.StepRunsTheDecodedCommand
  refine ⟨fun s w i rest hidle hs hw => step_write_cmd_of_decodeWord hs hidle hw, fun s nbits w i hidle _ hw => ?_⟩
  exact step_write_cmd_of_decodeWord (s := s.withFetchWord nbits w) rfl hidle (decodeWord_of_decodeTableWord hw)

/-- Settles O5: with the turn the engine runs what is pending. -/
theorem engineTurnRunsThePendingCommand : Obligations.EngineTurnRunsThePendingCommand := by
  unfold Obligations.EngineTurnRunsThePendingCommand
  refine fun s i hi => ⟨fun hs => ?_, fun rest hs => ?_⟩
  · exact (step_unscheduled hs).trans (engineStep_pending hi)
  · exact (step_of_schedule hs).trans (engineStep_pending hi)

/-- Settles O29: each of the two outcomes of a step excludes the other. -/
theorem onlyAccessDuringResetStopsTheMachine : Obligations.OnlyAccessDuringResetStopsTheMachine := by
  unfold Obligations.OnlyAccessDuringResetStopsTheMachine
  intro s
  obtain ⟨a, rest, hs, hstep⟩ | ⟨t, hstep, hnone⟩ := step_outcome s
  · rw [hstep]
    refine ⟨nofun, fun f => ⟨fun h => ?_, ?_⟩⟩
    · cases h
      exact ⟨rfl, a, rest, hs⟩
    · rintro ⟨rfl, -⟩
      rfl
  · rw [hstep]
    refine ⟨nofun, fun f => ⟨nofun, ?_⟩⟩
    rintro ⟨-, a, rest, hs⟩
    exact absurd hs (hnone a rest)

/-- Settles O43: whether it gets an error response or data, a read writes the response and at most counts a draw. -/
theorem readsHaveNoSideEffect : Obligations.ReadsHaveNoSideEffect := by
  unfold Obligations.ReadsHaveNoSideEffect
  intro s rest x n hs
  cases hok : accessOk x.toNat n with
  | false => exact ⟨_, (step_of_schedule hs).trans (hostAccess_of_not_accessOk (v := 0) (.inl rfl) hok _), .inl rfl⟩
  | true => exact ⟨_, step_read hs hok, .inr rfl⟩

/-- Settles O51: the offset is the distance from the base, which below 2^17 is a 17-bit address. -/
theorem apertureIsTheRangeFromTheBase : Obligations.ApertureIsTheRangeFromTheBase := by
  unfold Obligations.ApertureIsTheRangeFromTheBase
  intro p sysAddr
  unfold apertureOffset
  split_ifs with hin
  · refine ⟨fun x => ?_, iff_of_false nofun (by omega)⟩
    rw [Option.some.injEq, BitVec.toNat_eq, BitVec.toNat_ofNat]
    omega
  · refine ⟨fun x => iff_of_false nofun ?_, iff_of_true rfl (by omega)⟩
    have := x.isLt
    omega

end Sys2Proof.Claims
end

section
/-! SUPPORT. The scan of a buffer whose bytes are defined, in terms of the valid frames. -/

namespace Sys2Proof.Machine

open Sys2Proof.Claims

/-! ### Passes and the ends of a scan -/

theorem candidate_eq_none_iff {I : ScanInput} {c : Nat} :
    I.candidate c = none ↔ ∀ k, c ≤ k → k < I.n → I.hdr.head? ≠ some (I.byte .search k) := by
  refine ⟨candidate_eq_none, fun h => List.find?_eq_none.2 fun k hk => ?_⟩
  obtain ⟨hck, hkn⟩ := List.mem_range'_1.1 hk
  simpa using h k hck (by omega)

theorem candidate_eq_self {I : ScanInput} {c : Nat} (hc : c < I.n) (h : I.hdr.head? = some (I.byte .search c)) :
    I.candidate c = some c := by
  obtain ⟨m, hm⟩ : ∃ m, I.n - c = m + 1 := ⟨I.n - c - 1, by omega⟩
  simp [ScanInput.candidate, hm, List.range'_succ, h]

/-- The steps 3 to 8 report a packet exactly when none of them turns the candidate down (42_scan.md R173 to R178). -/
theorem tryCandidate_eq_packet_iff {I : ScanInput} {a L c' : Nat} :
    I.tryCandidate a = .packet a L c' ↔
      I.hdr.length ≤ I.n - a ∧ I.bytes (.header a) a I.hdr.length = I.hdr ∧ I.li + 1 ≤ I.n - a ∧
      L = I.packetLen a ∧ L ≤ I.n - a ∧ (isChecksumValid (I.bytes (.check a) a L) I.spec).valid = true ∧
      c' = if I.adv then a + L else a + 1 := by
  constructor
  · intro h
    rcases tryCandidate_cases I a with ⟨-, e⟩ | ⟨-, -, -, e⟩ | ⟨e, -⟩ | ⟨hhdr, heq, hli, hL, hv, e⟩ <;>
      rw [e] at h <;> cases h
    exact ⟨hhdr, heq, hli, rfl, hL, hv, rfl⟩
  · rintro ⟨hhdr, heq, hli, rfl, hL, hv, rfl⟩
    rw [ScanInput.tryCandidate, if_neg (not_lt.2 hhdr), if_neg (not_not.2 heq), if_neg (not_lt.2 hli),
      if_neg (not_lt.2 hL), if_neg (by simp [hv])]

/-- A scan whose first pass returns reports nothing. -/
theorem findValidPackets_of_pass_eq_stop {I : ScanInput} {rem : Nat × Nat} (h : I.pass 0 = .stop rem) :
    findValidPackets I = ([], rem) := by
  simp [findValidPackets, ScanInput.loop, h]

/-- The last pass of a finished scan returns the remainder. -/
theorem ScanRun.exists_stop {I : ScanInput} {c : Nat} {P : List (Nat × Nat)} {rem : Nat × Nat}
    (h : ScanRun I c P rem) : ∃ c', I.pass c' = .stop rem := by
  induction h with
  | stop h => exact ⟨_, h⟩
  | skip _ _ ih | packet _ _ ih => exact ih

/-- With the advance past the packet, the packets do not overlap (42_scan.md R183 item 2). -/
theorem ScanRun.no_overlap {I : ScanInput} (hI : I.sized) (hadv : I.adv = true) {c : Nat} {P : List (Nat × Nat)}
    {rem : Nat × Nat} (h : ScanRun I c P rem) : P.Pairwise (fun p q => p.1 + p.2 ≤ q.1) := by
  induction h with
  | stop => exact .nil
  | skip _ _ ih => exact ih
  | packet hp t ih =>
    obtain ⟨-, -, -, -, -, -, -, hc'⟩ := of_pass_eq_packet hp
    rw [if_pos hadv] at hc'
    exact List.pairwise_cons.2 ⟨fun q hq => hc'.symm.trans_le (t.packets_within hI q hq).1, ih⟩

/-! ### Frames -/

section Frames

variable {B H : List Byte} {li lo : Nat} {spec : ChecksumSpec} {adv tail : Bool} {a L L' c c' : Nat}

theorem getElem?_eq_some_getD (h : a < B.length) : B[a]? = some (B.getD a 0) := by simp [h]

theorem bytes_listInput (t : ReadTag) {len : Nat} (h : a + len ≤ B.length) :
    (listInput B H li lo spec adv tail).bytes t a len = (B.drop a).take len := by
  refine List.ext_getElem ?_ fun k hk hk' => ?_
  · rw [bytes_length, List.length_take, List.length_drop]
    omega
  · rw [bytes_length] at hk
    have hlt : a + k < B.length := by omega
    simp [ScanInput.bytes, listInput, hlt]

theorem candidate_listInput_eq_none_iff :
    (listInput B H li lo spec adv tail).candidate c = none ↔ ∀ k, c ≤ k → k < B.length → B[k]? ≠ H.head? := by
  rw [candidate_eq_none_iff]
  refine forall_congr' fun k => forall_congr' fun _ => forall_congr' fun hk => ?_
  rw [getElem?_eq_some_getD hk, ne_comm]
  rfl

theorem candidate_listInput_eq_some {s : Nat} (h : (listInput B H li lo spec adv tail).candidate c = some s) :
    c ≤ s ∧ s < B.length ∧ B[s]? = H.head? ∧ ∀ k, c ≤ k → k < s → B[k]? ≠ H.head? := by
  obtain ⟨hcs, hs, hhead, hbefore⟩ := candidate_eq_some h
  have hlt : s < B.length := hs
  refine ⟨hcs, hlt, (getElem?_eq_some_getD hlt).trans hhead.symm, fun k hck hks hk => hbefore k hck hks ?_⟩
  exact hk.symm.trans (getElem?_eq_some_getD (hks.trans hlt))

theorem candidate_listInput_eq_self (hc : c < B.length) (h : B[c]? = H.head?) :
    (listInput B H li lo spec adv tail).candidate c = some c :=
  candidate_eq_self hc (h.symm.trans (getElem?_eq_some_getD hc))

/-- A frame begins with a header byte. -/
theorem getElem?_eq_head?_of_frameAt (h : FrameAt B H li lo spec a L) (hH : H ≠ []) : B[a]? = H.head? := by
  obtain ⟨-, hhdr, -⟩ := h
  have hpos := (List.length_pos_iff.2 hH).ne'
  rw [← hhdr, List.head?_take, if_neg hpos, List.head?_drop]

theorem frameAt_length_unique (h : FrameAt B H li lo spec a L) (h' : FrameAt B H li lo spec a L') : L = L' := by
  obtain ⟨-, -, -, hL, -⟩ := h
  obtain ⟨-, -, -, hL', -⟩ := h'
  exact hL.trans hL'.symm

/-- The steps 3 to 8 report exactly the valid frame at the candidate (42_scan.md R183 item 1). -/
theorem tryCandidate_listInput_eq_packet_iff :
    (listInput B H li lo spec adv tail).tryCandidate a = .packet a L c' ↔
      FrameAt B H li lo spec a L ∧ c' = if adv then a + L else a + 1 := by
  rw [tryCandidate_eq_packet_iff]
  constructor
  · rintro ⟨hhdr, heq, hli, hL, hfit, hv, hc'⟩
    dsimp only [listInput] at hhdr hli hfit
    have hlen : a + H.length ≤ B.length := by omega
    have hslice : a + L ≤ B.length := by omega
    have hheader := (bytes_listInput _ hlen).symm.trans heq
    rw [bytes_listInput _ hslice, valid_iff_fits_and_stored] at hv
    exact ⟨⟨hlen, hheader, by omega, hL, hslice, hv⟩, hc'⟩
  · rintro ⟨⟨hlen, hheader, hli, hL, hslice, hv⟩, hc'⟩
    refine ⟨Nat.le_sub_of_add_le' hlen, (bytes_listInput _ hlen).trans hheader,
      Nat.le_sub_of_add_le' hli, hL, Nat.le_sub_of_add_le' hslice, ?_, hc'⟩
    rw [bytes_listInput _ hslice, valid_iff_fits_and_stored]
    exact hv

theorem sized_listInput (hspec : specLegal spec) : (listInput B H li lo spec adv tail).sized :=
  sized_of_specLegal hspec

/-! ### What a pass says of the frames from the cursor on -/

variable (hH : H ≠ [])

include hH

theorem not_frameAt_before_candidate {s : Nat} (h : (listInput B H li lo spec adv tail).candidate c = some s)
    (hca : c ≤ a) (has : a < s) : ¬ FrameAt B H li lo spec a L := by
  obtain ⟨-, -, -, hbefore⟩ := candidate_listInput_eq_some h
  exact fun hframe => hbefore a hca has (getElem?_eq_head?_of_frameAt hframe hH)

theorem not_frameAt_of_pass_eq_stop {rem : Nat × Nat}
    (h : (listInput B H li lo spec adv tail).pass c = .stop rem) (hca : c ≤ a) : ¬ FrameAt B H li lo spec a L := by
  intro hframe
  have hhead := getElem?_eq_head?_of_frameAt hframe hH
  obtain ⟨hlen, -, hli, -⟩ := hframe
  cases hk : (listInput B H li lo spec adv tail).candidate c with
  | none => exact candidate_listInput_eq_none_iff.1 hk a hca (by omega) hhead
  | some s =>
    obtain ⟨-, -, -, hbefore⟩ := candidate_listInput_eq_some hk
    have hsa : s ≤ a := not_lt.1 fun has => hbefore a hca has hhead
    rw [pass_of_candidate hk] at h
    rcases tryCandidate_cases (listInput B H li lo spec adv tail) s with
      ⟨hshort, e⟩ | ⟨-, -, hshort, e⟩ | ⟨e, -⟩ | ⟨-, -, -, -, -, e⟩ <;> rw [e] at h <;> cases h
    · change B.length - s < H.length at hshort
      omega
    · change B.length - s < li + 1 at hshort
      omega

theorem not_frameAt_of_pass_eq_skip (h : (listInput B H li lo spec adv tail).pass c = .skip c') (hca : c ≤ a)
    (hac' : a < c') : ¬ FrameAt B H li lo spec a L := by
  intro hframe
  cases hk : (listInput B H li lo spec adv tail).candidate c with
  | none =>
    rw [pass_of_no_candidate hk] at h
    cases h
  | some s =>
    rw [pass_of_candidate hk] at h
    have hsa : s ≤ a := not_lt.1 fun has => not_frameAt_before_candidate hH hk hca has hframe
    rcases tryCandidate_cases (listInput B H li lo spec adv tail) s with
      ⟨-, e⟩ | ⟨-, -, -, e⟩ | ⟨e, -⟩ | ⟨-, -, -, -, -, e⟩ <;> rw [e] at h <;> cases h
    obtain rfl : a = s := by omega
    cases e.symm.trans (tryCandidate_listInput_eq_packet_iff.2 ⟨hframe, rfl⟩)

theorem frameAt_of_pass_eq_packet (h : (listInput B H li lo spec adv tail).pass c = .packet a L c') :
    c ≤ a ∧ FrameAt B H li lo spec a L ∧ (c' = if adv then a + L else a + 1) ∧
      ∀ k M, c ≤ k → k < a → ¬ FrameAt B H li lo spec k M := by
  obtain ⟨hk, -⟩ := of_pass_eq_packet h
  obtain ⟨hca, -, -, -⟩ := candidate_listInput_eq_some hk
  rw [pass_of_candidate hk] at h
  obtain ⟨hframe, hc'⟩ := tryCandidate_listInput_eq_packet_iff.1 h
  exact ⟨hca, hframe, hc', fun k M hck hka => not_frameAt_before_candidate hH hk hck hka⟩

/-! ### The packets of a finished scan -/

variable (hspec : specLegal spec) {P : List (Nat × Nat)} {rem : Nat × Nat}

theorem ScanRun.frames (h : ScanRun (listInput B H li lo spec adv tail) c P rem) :
    ∀ q ∈ P, FrameAt B H li lo spec q.1 q.2 := by
  induction h with
  | stop => simp
  | skip _ _ ih => exact ih
  | packet hp _ ih => exact List.forall_mem_cons.2 ⟨(frameAt_of_pass_eq_packet hH hp).2.1, ih⟩

include hspec

/-- With the advance by one byte a scan from a cursor reports every frame from there on (42_scan.md R183 item 5). -/
theorem ScanRun.mem_iff_of_adv_eq_false (h : ScanRun (listInput B H li lo spec false tail) c P rem) :
    (a, L) ∈ P ↔ c ≤ a ∧ FrameAt B H li lo spec a L := by
  induction h with
  | stop hp => exact iff_of_false (by simp) fun ⟨hca, hframe⟩ => not_frameAt_of_pass_eq_stop hH hp hca hframe
  | skip hp _ ih =>
    have hlt := (pass_progress (sized_listInput hspec) (.inl hp)).1
    rw [ih]
    refine and_congr_left fun hframe => ⟨hlt.le.trans, fun hca => ?_⟩
    exact not_lt.1 fun hac' => not_frameAt_of_pass_eq_skip hH hp hca hac' hframe
  | @packet c b M c' P rem hp _ ih =>
    obtain ⟨hcb, hframeb, hc', hnone⟩ := frameAt_of_pass_eq_packet hH hp
    have hnext : c' = b + 1 := hc'
    rw [List.mem_cons, ih, Prod.mk.injEq]
    constructor
    · rintro (⟨rfl, rfl⟩ | ⟨hca, hframe⟩)
      · exact ⟨hcb, hframeb⟩
      · exact ⟨by omega, hframe⟩
    · rintro ⟨hca, hframe⟩
      have hba : b ≤ a := not_lt.1 fun hab => hnone a L hca hab hframe
      obtain rfl | hlt := hba.eq_or_lt
      · exact .inl ⟨rfl, frameAt_length_unique hframe hframeb⟩
      · exact .inr ⟨by omega, hframe⟩

/-- With the advance past the packet it reports every frame that starts in no reported packet. -/
theorem ScanRun.mem_iff_of_adv_eq_true (h : ScanRun (listInput B H li lo spec true tail) c P rem) :
    (a, L) ∈ P ↔ c ≤ a ∧ FrameAt B H li lo spec a L ∧ ∀ q ∈ P, ¬ (q.1 < a ∧ a < q.1 + q.2) := by
  induction h with
  | stop hp => exact iff_of_false (by simp) fun ⟨hca, hframe, _⟩ => not_frameAt_of_pass_eq_stop hH hp hca hframe
  | skip hp _ ih =>
    have hlt := (pass_progress (sized_listInput hspec) (.inl hp)).1
    rw [ih]
    refine and_congr_left fun ⟨hframe, _⟩ => ⟨hlt.le.trans, fun hca => ?_⟩
    exact not_lt.1 fun hac' => not_frameAt_of_pass_eq_skip hH hp hca hac' hframe
  | @packet c b M c' P rem hp t ih =>
    obtain ⟨hcb, hframeb, hc', hnone⟩ := frameAt_of_pass_eq_packet hH hp
    have hnext : c' = b + M := hc'
    obtain ⟨-, -, -, -, hbc'⟩ := packet_bounds (sized_listInput hspec) hp
    rw [List.mem_cons, ih, Prod.mk.injEq, List.forall_mem_cons]
    constructor
    · rintro (⟨rfl, rfl⟩ | ⟨hca, hframe, houter⟩)
      · refine ⟨hcb, hframeb, by omega, fun q hq => ?_⟩
        have := (t.packets_within (sized_listInput hspec) q hq).1
        omega
      · exact ⟨by omega, hframe, by omega, houter⟩
    · rintro ⟨hca, hframe, hnotin, houter⟩
      have hba : b ≤ a := not_lt.1 fun hab => hnone a L hca hab hframe
      obtain rfl | hlt := hba.eq_or_lt
      · exact .inl ⟨rfl, frameAt_length_unique hframe hframeb⟩
      · exact .inr ⟨by omega, hframe, houter⟩

end Frames

end Sys2Proof.Machine
end

section
/-! SUPPORT. The remainder of a scan, and the scan that SCAN makes of a buffer whose bytes are defined. -/

namespace Sys2Proof.Machine

open Sys2Proof.Claims

/-! ### Candidates without a packet -/

theorem tryCandidate_eq_skip_of_cut {I : ScanInput} {a : Nat} (hlen : I.hdr.length ≤ I.n - a)
    (hheader : I.bytes (.header a) a I.hdr.length = I.hdr) (hli : I.li + 1 ≤ I.n - a)
    (hcut : I.n - a < I.packetLen a) : I.tryCandidate a = .skip (a + 1) := by
  rw [ScanInput.tryCandidate, if_neg (not_lt.2 hlen), if_neg (not_not.2 hheader), if_neg (not_lt.2 hli), if_pos hcut]

theorem tryCandidate_eq_stop {I : ScanInput} {a : Nat}
    (h : I.n - a < I.hdr.length ∨ (I.bytes (.header a) a I.hdr.length = I.hdr ∧ I.n - a < I.li + 1)) :
    I.tryCandidate a = .stop (a, I.n - a) := by
  by_cases hshort : I.n - a < I.hdr.length
  · rw [ScanInput.tryCandidate, if_pos hshort]
  · obtain ⟨hheader, hli⟩ := h.resolve_left hshort
    rw [ScanInput.tryCandidate, if_neg hshort, if_neg (not_not.2 hheader), if_pos hli]

/-- A scan whose second pass returns after a first without a packet reports nothing. -/
theorem findValidPackets_of_skip_of_stop {I : ScanInput} {c : Nat} {rem : Nat × Nat} (hn : 0 < I.n)
    (hskip : I.pass 0 = .skip c) (hstop : I.pass c = .stop rem) : findValidPackets I = ([], rem) := by
  obtain ⟨m, hm⟩ := Nat.exists_eq_add_one.2 hn
  simp [findValidPackets, hm, ScanInput.loop, hskip, hstop]

/-! ### The remainder -/

/-- How the bytes from `r` on can be a remainder of length `l` (42_scan.md R173, R175, R179): a header byte with too few
bytes after it for the header or, the header matching, for the length byte; or nothing at the buffer's end under
TAIL = 0; or no header byte under TAIL = 1. -/
def endsScan (B H : List Byte) (li : Nat) (tail : Bool) (r l : Nat) : Prop :=
  (r < B.length ∧ B[r]? = H.head? ∧ (l < H.length ∨ ((B.drop r).take H.length = H ∧ l < li + 1))) ∨
  (tail = false ∧ r = B.length) ∨
  (tail = true ∧ ∀ k, r ≤ k → k < B.length → B[k]? ≠ H.head?)

section Remainder

variable {B H : List Byte} {li lo : Nat} {spec : ChecksumSpec} {adv tail : Bool} {a L c r l : Nat}

theorem endsScan_of_pass_eq_stop (h : (listInput B H li lo spec adv tail).pass c = .stop (r, l)) :
    endsScan B H li tail r l := by
  cases hk : (listInput B H li lo spec adv tail).candidate c with
  | none =>
    rw [pass_of_no_candidate hk] at h
    cases tail with
    | false =>
      cases h
      exact .inr (.inl ⟨rfl, rfl⟩)
    | true =>
      cases h
      exact .inr (.inr ⟨rfl, candidate_listInput_eq_none_iff.1 hk⟩)
  | some s =>
    obtain ⟨-, hlt, hhead, -⟩ := candidate_listInput_eq_some hk
    rw [pass_of_candidate hk] at h
    rcases tryCandidate_cases (listInput B H li lo spec adv tail) s with
      ⟨hshort, e⟩ | ⟨hfit, heq, hshort, e⟩ | ⟨e, -⟩ | ⟨-, -, -, -, -, e⟩ <;> rw [e] at h <;> cases h
    · exact .inl ⟨hlt, hhead, .inl hshort⟩
    · have hheader := (bytes_listInput _ (Nat.add_le_of_le_sub' hlt.le hfit)).symm.trans heq
      exact .inl ⟨hlt, hhead, .inr ⟨hheader, hshort⟩⟩

/-- In such bytes no valid frame starts (42_scan.md R183 items 3 and 4). -/
theorem not_frameAt_of_endsScan (hH : H ≠ []) (hsum : r + l = B.length) (h : endsScan B H li tail r l)
    (hra : r ≤ a) : ¬ FrameAt B H li lo spec a L := by
  intro hframe
  have hhead := getElem?_eq_head?_of_frameAt hframe hH
  obtain ⟨hlen, -, hli, -⟩ := hframe
  obtain ⟨-, -, hshort | ⟨-, hshort⟩⟩ | ⟨-, rfl⟩ | ⟨-, hnone⟩ := h
  · omega
  · omega
  · omega
  · exact hnone a hra (by omega) hhead

/-- A scan of such bytes alone returns them all at its first pass (42_scan.md R183 item 6). -/
theorem pass_drop_of_endsScan (hsum : r + l = B.length) (h : endsScan B H li tail r l) :
    (listInput (B.drop r) H li lo spec adv tail).pass 0 = .stop (0, (B.drop r).length) := by
  have hlen : (B.drop r).length = l := by rw [List.length_drop]; omega
  obtain ⟨hlt, hhead, hshort⟩ | ⟨rfl, rfl⟩ | ⟨rfl, hnone⟩ := h
  · have hcand : (listInput (B.drop r) H li lo spec adv tail).candidate 0 = some 0 :=
      candidate_listInput_eq_self (by omega) (by simpa using hhead)
    rw [pass_of_candidate hcand]
    have hn : (listInput (B.drop r) H li lo spec adv tail).n - 0 = l := hlen
    refine tryCandidate_eq_stop (hshort.imp hn.trans_lt fun ⟨hheader, hli⟩ => ⟨?_, hn.trans_lt hli⟩)
    have hfit : H.length ≤ (B.drop r).length := by
      have hmin := congrArg List.length hheader
      rw [List.length_take] at hmin
      omega
    exact (bytes_listInput _ (by rwa [Nat.zero_add])).trans hheader
  · have hcand : (listInput (B.drop B.length) H li lo spec adv false).candidate 0 = none :=
      candidate_listInput_eq_none_iff.2 fun k _ hk => by simp at hk
    rw [pass_of_no_candidate hcand]
    simp [listInput]
  · have hcand : (listInput (B.drop r) H li lo spec adv true).candidate 0 = none :=
      candidate_listInput_eq_none_iff.2 fun k _ hk => by
        rw [List.getElem?_drop]
        exact hnone (r + k) (by omega) (by omega)
    rw [pass_of_no_candidate hcand]
    rfl

/-- The remainder that a scan from cursor 0 returns. -/
theorem remainder_of_findValidPackets {P : List (Nat × Nat)} (hspec : specLegal spec)
    (h : findValidPackets (listInput B H li lo spec adv tail) = (P, (r, l))) :
    r + l = B.length ∧ endsScan B H li tail r l := by
  have hI : (listInput B H li lo spec adv tail).sized := sized_listInput hspec
  have hrun := scanRun_findValidPackets hI
  rw [h] at hrun
  obtain ⟨c, hstop⟩ := hrun.exists_stop
  exact ⟨hrun.rem_add hI (Nat.zero_le _), endsScan_of_pass_eq_stop hstop⟩

end Remainder

/-! ### The scan of SCAN -/

theorem header_of_headerIs {s : State} {H : List Byte} (h : headerIs s H) : s.header = H := by
  obtain ⟨hlen, -, -, hbytes⟩ := h
  refine List.ext_getElem (by simp [State.header, hlen]) fun k hk hk' => ?_
  have hbyte := hbytes k hk'
  rw [List.getElem?_eq_getElem hk', Option.some_inj] at hbyte
  simp [State.header, hbyte]

/-- On a buffer whose bytes are defined SCAN scans the list of its bytes (42_scan.md R170). -/
theorem findValidPackets_scanInput {s : State} {B H : List Byte} (hB : bufferIs s B) (hH : headerIs s H) :
    findValidPackets s.scanInput =
      findValidPackets (listInput B H s.lenIndex.toNat s.lenOffset.toNat (specOf s) s.latAdv s.latTail) := by
  have hread : ∀ tag k, k < B.length → s.bufByte tag k = B.getD k 0 := fun tag k hk =>
    bufByte_of_bufferIs hB tag (hB.1 ▸ hk)
  have hinput : s.scanInput =
      { listInput B H s.lenIndex.toNat s.lenOffset.toNat (specOf s) s.latAdv s.latTail with byte := s.bufByte } := by
    rw [State.scanInput, header_of_headerIs hH, spec_eq_specOf, ← hB.1]
    rfl
  rw [hinput]
  exact findValidPackets_congr hread

/-- SCAN of such a buffer is accepted, and completes with the number of packets and their descriptors (42_scan.md
R181, R182). -/
theorem scan_completes_of_bufferIs {s : State} {B H : List Byte} (hidle : s.pending = none) (hlegal : scanLegal s)
    (hB : bufferIs s B) (hH : headerIs s H) :
    ∃ (P : List (Nat × Nat)) (t : State) (rem : Nat × Nat),
      ScanRun (listInput B H s.lenIndex.toNat s.lenOffset.toNat (specOf s) s.ctrl.adv s.ctrl.tail) 0 P rem ∧
      exec .scan s = .next (acceptedAs s .scan) ∧ exec .scan (acceptedAs s .scan) = .next t ∧
      t.pktCount.toNat = P.length ∧
      (∀ k, k < P.length → k < s.params.pktMax →
        cellsGet t.desc k =
          (P[k]?).map (fun q => { start := BitVec.ofNat 32 q.1, len := BitVec.ofNat 32 q.2 })) := by
  obtain ⟨-, hscan⟩ := scanWritesPacketsAndRemainder
  obtain ⟨-, -, -, -, hcomplete⟩ := hscan s hidle
  obtain ⟨P, r, l, t, hfind, haccept, hexec, ht, hdesc, hcount, -⟩ := hcomplete hlegal
  have hinput : findValidPackets (acceptedAs s .scan).scanInput =
      findValidPackets (listInput B H s.lenIndex.toNat s.lenOffset.toNat (specOf s) s.ctrl.adv s.ctrl.tail) :=
    findValidPackets_scanInput (s := acceptedAs s .scan) hB hH
  obtain ⟨-, -, -, hspec⟩ := hlegal
  have hrun := scanRun_findValidPackets (sized_listInput (B := B) (H := H) (li := s.lenIndex.toNat)
    (lo := s.lenOffset.toNat) (adv := s.ctrl.adv) (tail := s.ctrl.tail) hspec)
  rw [← hinput, hfind] at hrun
  refine ⟨P, t, (r, l), hrun, haccept, hexec, ?_, fun k hk hmax => ?_⟩
  · have hlt := s.bufLen.isLt
    have hpkt : t.pktCount = BitVec.ofNat 32 P.length := by rw [ht]
    rw [hpkt, BitVec.toNat_ofNat, Nat.mod_eq_of_lt (by omega)]
  · rw [hdesc, if_pos (lt_min hk hmax)]

end Sys2Proof.Machine
end

section
/-! SUPPORT. The proofs of the statements about what a scan reports and leaves: O14, O15, O23, O24, O25, O26. -/

namespace Sys2Proof.Claims

open Sys2Proof.Machine

/-- Settles O14: the scan from cursor 0 reports every valid frame, and its starts increase. -/
theorem scanReportsExactlyTheValidFrames : Obligations.ScanReportsExactlyTheValidFrames := by
  unfold Obligations.ScanReportsExactlyTheValidFrames
  intro s B H hidle hlegal hB hH hadv
  obtain ⟨P, t, rem, hrun, haccept, hexec, hcount, hdesc⟩ := scan_completes_of_bufferIs hidle hlegal hB hH
  obtain ⟨-, hne, -⟩ := hH
  obtain ⟨-, -, -, hspec⟩ := hlegal
  rw [hadv] at hrun
  refine ⟨P, t, haccept, hexec, fun a L => ?_, hrun.starts_increase (sized_listInput hspec), hcount, hdesc⟩
  simpa using hrun.mem_iff_of_adv_eq_false hne hspec (a := a) (L := L)

/-- Settles O15: the scan from cursor 0 reports every valid frame that starts in no reported packet, and its packets do
not overlap. -/
theorem scanPastPacketsReportsTheOuterFrames : Obligations.ScanPastPacketsReportsTheOuterFrames := by
  unfold Obligations.ScanPastPacketsReportsTheOuterFrames
  intro s B H hidle hlegal hB hH hadv
  obtain ⟨P, t, rem, hrun, haccept, hexec, hcount, hdesc⟩ := scan_completes_of_bufferIs hidle hlegal hB hH
  obtain ⟨-, hne, -⟩ := hH
  obtain ⟨-, -, -, hspec⟩ := hlegal
  rw [hadv] at hrun
  refine ⟨P, t, haccept, hexec, fun a L => ?_, hrun.no_overlap (sized_listInput hspec) rfl, hcount, hdesc⟩
  simpa using hrun.mem_iff_of_adv_eq_true hne hspec (a := a) (L := L)

/-- Settles O23: each packet passed the steps 3 to 8, and each pass moves the cursor as the policy says. -/
theorem everyReportedPacketIsAValidFrame : Obligations.EveryReportedPacketIsAValidFrame := by
  unfold Obligations.EveryReportedPacketIsAValidFrame
  intro B H li lo spec adv tail hH hspec
  have hI : (listInput B H li lo spec adv tail).sized := sized_listInput hspec
  have hrun := scanRun_findValidPackets hI
  exact ⟨hrun.frames hH, hrun.starts_increase hI, fun hadv => hrun.no_overlap hI hadv⟩

/-- Settles O24: the pass that returns says how the remainder ends, which leaves no room for a frame. -/
theorem remainderHoldsNoValidFrame : Obligations.RemainderHoldsNoValidFrame := by
  unfold Obligations.RemainderHoldsNoValidFrame
  intro B H li lo spec adv tail P r l hH hspec h
  obtain ⟨hsum, hend⟩ := remainder_of_findValidPackets hspec h
  exact ⟨hsum, fun a L hra => not_frameAt_of_endsScan hH hsum hend hra, hend⟩

/-- Settles O25: what ended the scan at the remainder ends the scan of the remainder at its first pass. -/
theorem rescanOfARemainderFindsNothing : Obligations.RescanOfARemainderFindsNothing := by
  unfold Obligations.RescanOfARemainderFindsNothing
  intro B H li lo spec adv tail P r l hH hspec h
  obtain ⟨hsum, hend⟩ := remainder_of_findValidPackets hspec h
  exact findValidPackets_of_pass_eq_stop (pass_drop_of_endsScan hsum hend)

/-- Settles O26: the first pass skips the cut packet for its declared length, and the second finds no candidate. -/
theorem truncatedPacketIsLost : Obligations.TruncatedPacketIsLost := by
  unfold Obligations.TruncatedPacketIsLost
  intro B H li lo spec adv tail hH hlen hheader hli hcut hnone
  have hpos := List.length_pos_iff.2 hH
  have hhead : B[0]? = H.head? := by
    rw [← hheader, List.head?_take, if_neg (by omega), List.head?_eq_getElem?]
  have hfirst : (listInput B H li lo spec adv tail).pass 0 = .skip 1 := by
    rw [pass_of_candidate (candidate_listInput_eq_self (by omega) hhead)]
    exact tryCandidate_eq_skip_of_cut hlen ((bytes_listInput _ (by rwa [Nat.zero_add])).trans hheader) hli
      (by simpa [ScanInput.packetLen, listInput] using hcut)
  have hcand : (listInput B H li lo spec adv tail).candidate 1 = none :=
    candidate_listInput_eq_none_iff.2 hnone
  exact findValidPackets_of_skip_of_stop (hpos.trans_le hlen) hfirst (pass_of_no_candidate hcand)

end Sys2Proof.Claims
end

section
/-! SUPPORT. What each step leaves unchanged: the frame of a host access, of a write by its target, and of the five
commands, and a run of host accesses. -/

namespace Sys2Proof.Machine

open Sys2Proof.Claims

/-! ### The frame of a host access -/

/-- What no host access changes: the build, the results, the descriptors and what is scheduled. -/
def keepsResults (s t : State) : Prop :=
  t.params = s.params ∧ sameResults s t ∧ t.desc = s.desc ∧ t.schedule = s.schedule

theorem keepsResults_refl (s : State) : keepsResults s s := ⟨rfl, ⟨rfl, rfl, rfl, rfl, rfl, rfl⟩, rfl, rfl⟩

theorem WriteEffect.keepsResults {s t : State} (h : WriteEffect s t) : keepsResults s t := by
  cases h with
  | nothing | ignored | ctrl | status | illegal => exact keepsResults_refl s
  | config _ r v => simp [Machine.keepsResults, sameResults]
  | window _ x bs => simp [Machine.keepsResults, sameResults]
  | command _ i => obtain ⟨-, heq⟩ | ⟨-, heq⟩ := acceptCommand_cases i s <;> rw [heq] <;> exact keepsResults_refl s

theorem hostAccess_keepsResults {a : Access} {s t : State} (h : hostAccess a s = .next t) : keepsResults s t := by
  obtain ⟨u, hu, hcases⟩ := hostAccess_cases a s
  cases hu.symm.trans h
  obtain ⟨r, rfl | rfl⟩ | heffect := hcases
  · exact keepsResults_refl s
  · exact keepsResults_refl s
  · exact heffect.keepsResults

/-! ### The frame of a write, by its target -/

/-- The configuration registers and the windows' bytes stay. -/
def keepsInputs (s t : State) : Prop := sameConfig s t ∧ t.mem = s.mem

theorem keepsInputs_refl (s : State) : keepsInputs s s := ⟨⟨rfl, rfl, rfl, rfl, rfl, rfl, rfl, rfl⟩, rfl⟩

theorem cmdWrite_keepsInputs {w : Word} {s t : State} (h : cmdWrite w s = .next t) : keepsInputs s t := by
  cases hb : s.busy with
  | true =>
    cases (cmdWrite_of_busy hb w).symm.trans h
    exact keepsInputs_refl s
  | false =>
    by_cases hcheck : checkWord w s = .noError
    · obtain ⟨i, -, hi⟩ := cmdWrite_of_checkWord_eq_noError hb hcheck
      cases hi.symm.trans h
      exact keepsInputs_refl s
    · cases (cmdWrite_of_checkWord_ne_noError hb hcheck).symm.trans h
      exact keepsInputs_refl s

/-- The targets through which a write reaches the configuration or the windows (40_command.md R126). -/
theorem writeData_target {x : Nat} {n : Size} {v : Word} {s t : State} (h : writeData x n v s = .next t) :
    (configOffset x ∧ ∃ r, t = s.writeConfig r v) ∨ (inWindow x ∧ t = s.writeWindow x n v) ∨ keepsInputs s t := by
  by_cases hcfg : configOffset x
  · obtain ⟨r, hr⟩ := writeData_of_configOffset hcfg n v s
    cases hr.symm.trans h
    exact .inl ⟨hcfg, r, rfl⟩
  by_cases hwin : inWindow x
  · cases (writeData_of_inWindow hwin n v s).symm.trans h
    exact .inr (.inl ⟨hwin, rfl⟩)
  refine .inr (.inr ?_)
  by_cases hcmd : x = 0x018
  · subst hcmd
    exact cmdWrite_keepsInputs h
  by_cases hctrl : x = 0x010
  · subst hctrl
    cases h
    exact keepsInputs_refl s
  by_cases hstatus : x = 0x014
  · subst hstatus
    cases h
    exact keepsInputs_refl s
  · cases (writeData_of_other (by simp [*]) n v s).symm.trans h
    exact keepsInputs_refl s

/-- The only writes that change the configuration or the windows are those to them, of an idle block (40_command.md
R126, 70_reset_and_hazards.md R235). -/
theorem inputs_changed_by_write {x : Nat} {n : Size} {v : Word} {s t : State} (h : writeData x n v s = .next t) :
    (s.busy = false ∧ configOffset x ∧ t.mem = s.mem) ∨ (s.busy = false ∧ inWindow x ∧ sameConfig s t) ∨
      keepsInputs s t := by
  obtain ⟨hcfg, r, rfl⟩ | ⟨hwin, rfl⟩ | hkeep := writeData_target h
  · cases hb : s.busy with
    | true =>
      rw [writeConfig_of_busy hb]
      exact .inr (.inr (keepsInputs_refl s))
    | false => exact .inl ⟨rfl, hcfg, by simp [State.writeConfig, hb]⟩
  · cases hb : s.busy with
    | true =>
      rw [writeWindow_of_busy hb]
      exact .inr (.inr (keepsInputs_refl s))
    | false => exact .inr (.inl ⟨rfl, hwin, by simp [State.writeWindow, hb, sameConfig]⟩)
  · exact .inr (.inr hkeep)

theorem inputs_changed_by_hostAccess {a : Access} {s t : State} (h : hostAccess a s = .next t) :
    (s.busy = false ∧ (∃ x v, a = .write x .b4 v ∧ configOffset x.toNat) ∧ t.mem = s.mem) ∨
      (s.busy = false ∧ (∃ x n v, a = .write x n v ∧ inWindow x.toNat) ∧ sameConfig s t) ∨ keepsInputs s t := by
  cases a with
  | read x n =>
    cases h
    unfold hostRead
    split
    · exact .inr (.inr (keepsInputs_refl s))
    · exact .inr (.inr (keepsInputs_refl s))
  | write x n v =>
    cases hok : accessOk x.toNat n with
    | false =>
      cases (hostWrite_of_not_accessOk hok v s).symm.trans h
      exact .inr (.inr (keepsInputs_refl s))
    | true =>
      have hdata := (hostWrite_of_accessOk hok v s).symm.trans h
      obtain ⟨hb, hcfg, hmem⟩ | ⟨hb, hwin, hconfig⟩ | hkeep := inputs_changed_by_write hdata
      · obtain rfl := size_eq_b4_of_accessOk hok (lt_of_configOffset hcfg)
        exact .inl ⟨hb, ⟨x, v, rfl, hcfg⟩, hmem⟩
      · exact .inr (.inl ⟨hb, ⟨x, n, v, rfl, hwin⟩, hconfig⟩)
      · exact .inr (.inr hkeep)

/-! ### A run of host accesses -/

theorem pending_eq_of_keepsCommand {s t : State} (h : keepsCommand s t) : t.pending = s.pending := by
  obtain ⟨-, -, hpending, -⟩ := h
  exact hpending

theorem keepsCommand_trans {s t u : State} (h : keepsCommand s t) (h' : keepsCommand t u) : keepsCommand s u := by
  simp_all [keepsCommand, sameConfig]

/-- A run over host accesses leaves the running command, its inputs, the results and the descriptors as they were, and
comes to what is scheduled after them. -/
theorem run_hostAccesses (as : List Access) {s : State} {i : Instr} {rest : List Event} (k : Nat)
    (hi : s.pending = some i) (hs : s.schedule = as.map .host ++ rest) :
    ∃ u, Host.Core.run core (as.length + k) s = Host.Core.run core k u ∧ u.schedule = rest ∧ u.params = s.params ∧
      u.desc = s.desc ∧ keepsCommand s u := by
  induction as generalizing s with
  | nil => exact ⟨s, by rw [List.length_nil, Nat.zero_add], hs, rfl, rfl, keepsCommand_refl s⟩
  | cons a as ih =>
    obtain ⟨t, ht, -⟩ := hostAccess_cases a { s with schedule := as.map .host ++ rest }
    have hstep : step s = .next t := (step_of_schedule hs).trans ht
    obtain ⟨hparams, -, hdesc, hsched⟩ := hostAccess_keepsResults ht
    have hb : ({ s with schedule := as.map .host ++ rest } : State).busy = true := busy_eq_true_iff.2 ⟨i, hi⟩
    have hkeep := hostAccess_keepsCommand hb ht
    obtain ⟨u, hrun, hrest, huparams, hudesc, hukeep⟩ := ih ((pending_eq_of_keepsCommand hkeep).trans hi) hsched
    refine ⟨u, ?_, hrest, huparams.trans hparams, hudesc.trans hdesc, keepsCommand_trans hkeep hukeep⟩
    rw [List.length_cons, Nat.add_right_comm, core_run_succ hstep, hrun]

theorem step_of_nextEngine {s : State} (h : nextEngine s) : step s = engineStep s.popEvent := by
  obtain hs | ⟨rest, hs⟩ := h
  · have hpop : s.popEvent = s := by
      cases s
      simp_all [State.popEvent]
    rw [step_unscheduled hs, hpop]
  · rw [step_of_schedule hs, State.popEvent, hs]
    rfl

/-- The engine's turn completes the running command (40_command.md R125). -/
theorem step_completes {s : State} {i : Instr} (hi : s.pending = some i) (h : nextEngine s) :
    step s = .next (s.popEvent.complete (resultsOf i s.popEvent)) := by
  have hi' : s.popEvent.pending = some i := hi
  rw [step_of_nextEngine h, engineStep_pending hi', exec_pending hi']

theorem core_run_one {s t : State} (h : step s = .next t) : Host.Core.run core 1 s = .next t :=
  core_run_succ h 0

/-- Only SCAN finds packets (41_checksum.md R147 to R150). -/
theorem resultsOf_packets_eq_nil {i : Instr} (hi : i ≠ .scan) (s : State) : (resultsOf i s).packets = [] := by
  cases i with
  | scan => exact absurd rfl hi
  | xorsum | addsum | b2u | validate => rfl

/-- The bytes of the buffer read alike in both states, so the running command computes the same (40_command.md R129). -/
theorem sameInputs_of_keepsCommand {s t : State} {B : List Byte} (hB : bufferIs s B) (hparams : t.params = s.params)
    (h : keepsCommand s t) : SameInputs s t := by
  obtain ⟨hconfig, hmem, -, hadv, htail⟩ := h
  have hbuf : t.bufLen = s.bufLen := hconfig.1
  have hB' : bufferIs t B := by simpa [bufferIs, hbuf, State.bufDefined, hmem] using hB
  exact
    { params := hparams, config := hconfig, latAdv := hadv, latTail := htail
      buffer := fun tag k hk => by rw [bufByte_of_bufferIs hB tag hk, bufByte_of_bufferIs hB' tag (hbuf ▸ hk)]
      header := fun k _ => by simp [State.hdrByte, hparams, hmem] }

end Sys2Proof.Machine
end

section
/-! SUPPORT. The proofs of the statements about what a step leaves unchanged, and about runs: O32, O34, O36, O39, O40. -/

namespace Sys2Proof.Claims

open Sys2Proof.Machine

/-- Settles O32: the accesses leave the command pending, and with nothing scheduled the engine completes it. -/
theorem runningCommandCompletes : Obligations.RunningCommandCompletes := by
  unfold Obligations.RunningCommandCompletes
  intro s i hi hall
  obtain ⟨as, has⟩ : ∃ as : List Access, as.map Event.host = s.schedule := by
    rw [← Set.mem_range, Set.range_list_map]
    exact fun e he => (hall e he).imp fun _ => Eq.symm
  have hs : s.schedule = as.map .host ++ [] := by rw [List.append_nil, has]
  obtain ⟨u, hrun, hempty, -, -, hkeep⟩ := run_hostAccesses as 1 hi hs
  have hpending := (pending_eq_of_keepsCommand hkeep).trans hi
  rw [← has, List.length_map, hrun]
  exact ⟨_, core_run_one (step_completes hpending (.inl hempty)), rfl, rfl⟩

/-- Settles O34: the accesses leave the command's inputs and the descriptors as they were, so the completion computes and
stores the same. -/
theorem resultsDoNotDependOnWhenTheEngineRuns : Obligations.ResultsDoNotDependOnWhenTheEngineRuns := by
  unfold Obligations.ResultsDoNotDependOnWhenTheEngineRuns
  intro s i B as t t' hi hcheck hB hnow hlater
  obtain ⟨u, hrun, hsched, hparams, hdesc, hkeep⟩ :=
    run_hostAccesses (s := { s with schedule := as.map .host ++ [.engine] }) as 1 hi rfl
  have hpending := (pending_eq_of_keepsCommand hkeep).trans hi
  have hinputs : SameInputs s u.popEvent := sameInputs_of_keepsCommand hB hparams hkeep
  have hinputs' : SameInputs s ({ s with schedule := [.engine] } : State).popEvent :=
    sameInputs_of_keepsCommand hB rfl (keepsCommand_refl s)
  have hfirst := core_run_one (step_completes (s := { s with schedule := [.engine] }) hi (.inr ⟨[], rfl⟩))
  have hsecond := core_run_one (step_completes hpending (.inr ⟨[], hsched⟩))
  rw [hinputs'.resultsOf_eq hcheck] at hfirst
  rw [hinputs.resultsOf_eq hcheck] at hsecond
  cases hfirst.symm.trans hnow
  cases hsecond.symm.trans (hrun.symm.trans hlater)
  refine ⟨⟨rfl, rfl, rfl, rfl, rfl, rfl⟩, ?_⟩
  have hdesc' : u.popEvent.desc = s.desc := hdesc
  have hparams' : u.popEvent.params = s.params := hparams
  rw [State.complete_desc, State.complete_desc, hdesc', hparams']
  rfl

/-- Settles O36: of the causes that change STATUS, only a STATUS write lowers DONE and leaves ERR. -/
theorem errWithoutDoneComesFromAClear : Obligations.ErrWithoutDoneComesFromAClear := by
  unfold Obligations.ErrWithoutDoneComesFromAClear
  intro s t hstep hboth herr hdone
  cases reportChange_of_step hstep with
  | statusWrite v hwrite hstatus =>
    refine ⟨v, hwrite, ?_⟩
    simp only [hstatus, Status.clearedBy, Bool.and_eq_true] at herr hdone
    simpa [hboth herr.1] using hdone
  | ignoredWrite x n v rest hbusy hs herror heq =>
    rw [heq] at herr hdone
    simp [hboth herr] at hdone
  | kept hstatus | ctrlWrite v hwrite hstatus =>
    rw [hstatus] at herr hdone
    simp [hboth herr] at hdone
  | accepted v hwrite hidle hstatus | refused v hwrite hidle c hstatus | completed hturn hbusy hstatus
  | reset hreset hstatus => simp [hstatus] at herr hdone

/-- Settles O40: the acceptance, the refusal, the completion and the ignored write are each an update of a few fields. -/
theorem commandsChangeOnlyReportAndResults : Obligations.CommandsChangeOnlyReportAndResults := by
  unfold Obligations.CommandsChangeOnlyReportAndResults
  intro i s
  obtain ⟨hidle, hexec⟩ | ⟨hi, hexec⟩ | ⟨j, hj, hji, hexec⟩ := exec_cases i s
  · obtain ⟨-, heq⟩ | ⟨-, heq⟩ := acceptCommand_cases i s <;> rw [heq] at hexec
    all_goals exact ⟨_, hexec, rfl, rfl, ⟨rfl, rfl, rfl, rfl, rfl, rfl, rfl, rfl⟩, rfl, rfl, fun _ => rfl, fun _ => rfl,
      fun _ _ => rfl, fun _ => ⟨rfl, rfl, rfl, rfl, rfl, rfl⟩, absurd hidle, fun j hj _ => by simp [hidle] at hj⟩
  · refine ⟨_, hexec, rfl, rfl, ⟨rfl, rfl, rfl, rfl, rfl, rfl, rfl, rfl⟩, rfl, rfl, fun _ => rfl, fun _ => rfl,
      fun hscan k => ?_, fun hne => absurd hi hne, fun _ => ⟨rfl, rfl⟩, fun j hj hji => ?_⟩
    · have hnil := resultsOf_packets_eq_nil (i := i) (by rintro rfl; simp [hi] at hscan) s
      simp [hnil, storeDescs]
    · cases hi.symm.trans hj
      exact absurd rfl hji
  · refine ⟨_, hexec, rfl, rfl, ⟨rfl, rfl, rfl, rfl, rfl, rfl, rfl, rfl⟩, rfl, rfl, fun _ => rfl, fun hw => ?_,
      fun _ _ => rfl, fun _ => ⟨rfl, rfl, rfl, rfl, rfl, rfl⟩, fun _ => ⟨rfl, rfl⟩, fun _ _ _ => rfl⟩
    simp [hj, hji] at hw

/-- Settles O39: a host access changes no result, and the configuration and the windows only by a write to them of an
idle block; a completion changes neither. -/
theorem storageKeepsItsValues : Obligations.StorageKeepsItsValues := by
  unfold Obligations.StorageKeepsItsValues
  intro s t hstep hnoreset
  have hctrl : t.ctrl ≠ s.ctrl → ∃ v, nextWrites s 0x010 v := by
    intro hne
    cases reportChange_of_step hstep with
    | ctrlWrite v hwrite => exact ⟨v, hwrite⟩
    | reset hreset => exact absurd hreset hnoreset
    | ignoredWrite x n v rest hbusy hs herror heq => exact absurd (by rw [heq]) hne
    | kept hstatus hctrl | statusWrite v hwrite hstatus hctrl | accepted v hwrite hidle hstatus hctrl
    | refused v hwrite hidle c hstatus hctrl | completed hturn hbusy hstatus hctrl => exact absurd hctrl hne
  obtain ⟨a, rest, hs, haccess⟩ | ⟨i, hi, hturn, rfl⟩ | ⟨-, -, rfl⟩ | ⟨rest, hs, rfl⟩ := step_cases hstep
  · obtain ⟨hparams, hresults, hdesc, -⟩ := hostAccess_keepsResults haccess
    refine ⟨hparams, ?_, ?_, hctrl, fun hne => absurd ⟨hresults, hdesc⟩ hne⟩
    all_goals
      intro hne
      obtain ⟨hb, hwrite, hmem⟩ | ⟨hb, hwrite, hconfig⟩ | ⟨hconfig, hmem⟩ := inputs_changed_by_hostAccess haccess
    · obtain ⟨x, v, rfl, hcfg⟩ := hwrite
      exact ⟨hb, x, v, ⟨rest, hs⟩, hcfg⟩
    · exact absurd hconfig hne
    · exact absurd hconfig hne
    · exact absurd hmem hne
    · obtain ⟨x, n, v, rfl, hwin⟩ := hwrite
      exact ⟨hb, x, n, v, rest, hs, hwin⟩
    · exact absurd hmem hne
  · exact ⟨rfl, fun hne => absurd (keepsInputs_refl s).1 hne, fun hne => absurd rfl hne, hctrl,
      fun _ => ⟨busy_eq_true_iff.2 ⟨i, hi⟩, hturn⟩⟩
  · exact ⟨rfl, fun hne => absurd (keepsInputs_refl s).1 hne, fun hne => absurd rfl hne, hctrl,
      fun hne => absurd ⟨⟨rfl, rfl, rfl, rfl, rfl, rfl⟩, rfl⟩ hne⟩
  · exact absurd ⟨rest, hs⟩ hnoreset

end Sys2Proof.Claims
end

section
/-! SUPPORT. The bytes of the windows, and the words of the registers and of the DESC window. -/

namespace Sys2Proof.Machine

open Sys2Proof.Claims

/-! ### Accesses without error -/

theorem accessOk_of_not_accessBad {x : Addr} {n : Size} (h : ¬ accessBad x n) : accessOk x.toNat n = true := by
  cases hok : accessOk x.toNat n with
  | false => exact absurd ((accessOk_eq_false_iff x n).1 hok) h
  | true => rfl

theorem Size.bytes_le (n : Size) : n.bytes ≤ 4 := by
  cases n <;> decide

theorem hostRead_status (x : Addr) (n : Size) (s : State) : (hostRead x n s).status = s.status := by
  unfold hostRead
  split <;> rfl

theorem sameConfig_hostRead_iff (x : Addr) (n : Size) (s t : State) :
    sameConfig s (hostRead x n t) ↔ sameConfig s t := by
  unfold hostRead
  split <;> rfl

theorem regionOf_reserved {x : Nat} (hlo : 0x200 ≤ x) (hhi : x < 0x8000) : regionOf x = .reserved := by
  rw [regionOf, if_neg (by omega), if_neg (by omega), if_pos hhi]

theorem regionOf_desc {x : Nat} (hlo : 0x8000 ≤ x) (hhi : x < 0x10000) : regionOf x = .desc := by
  rw [regionOf, if_neg (by omega), if_neg (by omega), if_neg (by omega), if_pos hhi]

/-! ### The bytes of a number -/

theorem leNat_div_mod {b : List Byte} {j : Nat} (hj : j < b.length) : leNat b / 2 ^ (8 * j) % 256 = b[j].toNat := by
  induction b generalizing j with
  | nil => simp at hj
  | cons x b ih =>
    have hx := x.isLt
    cases j with
    | zero =>
      rw [leNat, Nat.mul_zero, Nat.pow_zero, Nat.div_one, List.getElem_cons_zero]
      omega
    | succ j =>
      have hpow : 2 ^ (8 * (j + 1)) = 256 * 2 ^ (8 * j) := by ring
      have hdiv : (x.toNat + 256 * leNat b) / 256 = leNat b := by omega
      rw [leNat, hpow, ← Nat.div_div_eq_div_mul, hdiv, List.getElem_cons_succ]
      exact ih (by simpa using hj)

theorem toNat_ofNat_leNat {b : List Byte} (h : b.length ≤ 4) : (BitVec.ofNat 32 (leNat b)).toNat = leNat b := by
  have hlt := leNat_lt b
  have hpow : 2 ^ (8 * b.length) ≤ 2 ^ 32 := Nat.pow_le_pow_right (by decide) (by omega)
  rw [BitVec.toNat_ofNat, Nat.mod_eq_of_lt (hlt.trans_le hpow)]

/-- Each byte of the data of a read is at its place (20_memory.md R74). -/
theorem extractLsb'_ofNat_leNat {b : List Byte} (h : b.length ≤ 4) {j : Nat} (hj : j < b.length) :
    (BitVec.ofNat 32 (leNat b)).extractLsb' (8 * j) 8 = b[j] := by
  apply BitVec.eq_of_toNat_eq
  rw [BitVec.extractLsb'_toNat, toNat_ofNat_leNat h, Nat.shiftRight_eq_div_pow]
  exact leNat_div_mod hj

/-! ### The bytes of a window -/

theorem windowHolds_iff (p : Params) (x : Nat) : windowHolds p x = true ↔ holdsByte p x := by
  unfold windowHolds regionOf holdsByte hdrBase bufBase
  split_ifs <;> simp <;> omega

theorem windowByte_of_read {s : State} {x : Nat} {b : Byte} (h : holdsByte s.params x)
    (hread : Memory.read s.mem x = some b) : s.windowByte x = b := by
  obtain ⟨hlo, hhi, hmax⟩ | ⟨hlo, hmax⟩ := h
  · have hregion : regionOf x = .hdr := by rw [regionOf, if_neg (by omega), if_pos hhi]
    have hx : hdrBase + (x - hdrBase) = x := Nat.add_sub_cancel' hlo
    have hlt : x - hdrBase < s.params.hdrMax := by unfold hdrBase; omega
    simp [State.windowByte, hregion, State.hdrByte, hlt, hx, hread]
  · have hregion : regionOf x = .buf := by
      rw [regionOf, if_neg (by omega), if_neg (by omega), if_neg (by omega), if_neg (by omega)]
    have hx : bufBase + (x - bufBase) = x := Nat.add_sub_cancel' hlo
    have hlt : x - bufBase < s.params.bufMax := by unfold bufBase; omega
    simp [State.windowByte, hregion, State.bufByte, State.bufDefined, hlt, hx, hread]

theorem windowByte_of_not_holdsByte {s : State} {x : Nat} (h : ¬ holdsByte s.params x) : s.windowByte x = 0 := by
  rw [← windowHolds_iff, windowHolds] at h
  unfold State.windowByte
  cases hr : regionOf x with
  | hdr =>
    rw [hr] at h
    exact if_neg (by simpa using h)
  | buf =>
    rw [hr] at h
    exact if_neg (by simpa using h)
  | registers | reserved | desc => rfl

theorem readData_of_inWindow {x : Nat} (hx : inWindow x) (n : Size) (s : State) :
    s.readData x n = BitVec.ofNat 32 (leNat ((List.range' x n.bytes).map s.windowByte)) := by
  obtain h | h := regionOf_of_inWindow hx <;> simp [State.readData, h]

/-- A window write changes the memory alone. -/
theorem exists_writeBytes_eq (s : State) (x : Nat) (bs : List Byte) : ∃ m, s.writeBytes x bs = { s with mem := m } := by
  induction bs generalizing s x with
  | nil => exact ⟨s.mem, rfl⟩
  | cons b bs ih =>
    obtain ⟨m, hm⟩ : ∃ m, s.writeByte x b = { s with mem := m } := by
      unfold State.writeByte
      split
      · exact ⟨_, rfl⟩
      · exact ⟨s.mem, rfl⟩
    obtain ⟨m', hm'⟩ := ih (s.writeByte x b) (x + 1)
    exact ⟨m', by rw [State.writeBytes, hm', hm]⟩

/-! ### The layouts of CTRL, CKCFG and RES_FLAGS, and the bits a write stores -/

/-- Three flags in bits 0 to 2 of a word whose other bits are 0, the layout of CTRL and of RES_FLAGS (10_state.md R24,
R39). -/
theorem threeFlags_layout (a b c : Bool) :
    (BitVec.ofNat 32 (a.toNat + 2 * b.toNat + 4 * c.toNat)).getLsbD 0 = a ∧
    (BitVec.ofNat 32 (a.toNat + 2 * b.toNat + 4 * c.toNat)).getLsbD 1 = b ∧
    (BitVec.ofNat 32 (a.toNat + 2 * b.toNat + 4 * c.toNat)).getLsbD 2 = c ∧
    (BitVec.ofNat 32 (a.toNat + 2 * b.toNat + 4 * c.toNat)).extractLsb' 3 29 = 0 := by
  cases a <;> cases b <;> cases c <;> decide

/-- The layout of CKCFG (10_state.md R30). -/
theorem ckCfgWord_layout (c : CkCfg) :
    (c.toWord.getLsbD 0 = true ↔ c.mode = .add) ∧ (c.toWord.getLsbD 1 = true ↔ c.endian = .little) ∧
    c.toWord.extractLsb' 4 4 = c.size ∧ c.toWord.extractLsb' 2 2 = 0 ∧ c.toWord.extractLsb' 8 24 = 0 := by
  obtain ⟨mode, endian, size⟩ := c
  cases mode <;> cases endian <;> revert size <;> decide

theorem resultRead_of_idle {s : State} (h : s.busy = false) (v : Word) : s.resultRead v = v := by
  simp [State.resultRead, h]

/-- The layout of RES_FLAGS of an idle block (10_state.md R39). -/
theorem readReg_resFlags_layout {s : State} (h : s.busy = false) :
    (s.readReg .resFlags).getLsbD 0 = s.resFlags.valid ∧ (s.readReg .resFlags).getLsbD 1 = s.resFlags.rangeFail ∧
    (s.readReg .resFlags).getLsbD 2 = s.resFlags.ovf ∧ (s.readReg .resFlags).extractLsb' 3 29 = 0 := by
  rw [State.readReg, resultRead_of_idle h]
  exact threeFlags_layout _ _ _

/-- The defined bits of CTRL and CKCFG are in the low byte of the written word. -/
theorem and_low_byte (v : Word) : v &&& 0xFF = (v.setWidth 8).setWidth 32 := by
  apply BitVec.eq_of_toNat_eq
  rw [BitVec.toNat_and, BitVec.toNat_setWidth, BitVec.toNat_setWidth]
  exact (Nat.and_two_pow_sub_one_eq_mod v.toNat 8).trans (Nat.mod_eq_of_lt (by omega)).symm

theorem Ctrl.toWord_ofWord (v : Word) : (Ctrl.ofWord v).toWord = v &&& 0x00000007 := by
  have hlow : ∀ b : Byte, (Ctrl.ofWord (b.setWidth 32)).toWord = b.setWidth 32 &&& 0x00000007 := by decide
  have hfields : Ctrl.ofWord v = Ctrl.ofWord (v &&& 0xFF) := by simp [Ctrl.ofWord]
  have hmask : v &&& 0x00000007 = v &&& 0xFF &&& 0x00000007 := (BitVec.and_assoc v 0xFF 0x00000007).symm
  rw [hfields, hmask, and_low_byte, hlow]

theorem CkCfg.toWord_ofWord (v : Word) : (CkCfg.ofWord v).toWord = v &&& 0x000000F3 := by
  have hlow : ∀ b : Byte, (CkCfg.ofWord (b.setWidth 32)).toWord = b.setWidth 32 &&& 0x000000F3 := by decide
  have hsize : (v &&& 0xFF).extractLsb' 4 4 = v.extractLsb' 4 4 := by
    rw [BitVec.extractLsb'_and]
    exact BitVec.and_allOnes
  have hfields : CkCfg.ofWord v = CkCfg.ofWord (v &&& 0xFF) := by
    rw [CkCfg.ofWord, CkCfg.ofWord, hsize]
    simp
  have hmask : v &&& 0x000000F3 = v &&& 0xFF &&& 0x000000F3 := (BitVec.and_assoc v 0xFF 0x000000F3).symm
  rw [hfields, hmask, and_low_byte, hlow]

/-! ### Targets that ignore a write, and writes that the configuration takes -/

/-- A write to a target that ignores it at all times is answered and does nothing else (40_command.md R126). -/
theorem step_write_of_other {s : State} {x : Addr} {n : Size} {v : Word} {rest : List Event}
    (h : s.schedule = .host (.write x n v) :: rest) (hok : accessOk x.toNat n = true)
    (hx : ¬ (x.toNat = 0x018 ∨ configOffset x.toNat ∨ inWindow x.toNat ∨ x.toNat = 0x010 ∨ x.toNat = 0x014)) :
    step s = .next { s with schedule := rest, resp := { data := 0, error := false } } := by
  rw [step_write h hok, writeData_of_other hx]

theorem addr_of_configOffset {x : Addr} (h : configOffset x.toNat) :
    x = 0x020 ∨ x = 0x024 ∨ x = 0x028 ∨ x = 0x02C ∨ x = 0x030 ∨ x = 0x034 ∨ x = 0x038 ∨ x = 0x03C := by
  unfold configOffset at h
  bv_omega

/-- A word write to a configuration register of an idle block stores the word there (10_state.md R36). -/
theorem step_write_config {s : State} {x : Addr} {v : Word} {rest : List Event} {r : Reg}
    (h : s.schedule = .host (.write x .b4 v) :: rest) (hidle : s.busy = false) (hx : configOffset x.toNat)
    (hr : regAt x.toNat = some r) (hcfg : r.isConfig = true) :
    step s = .next (({ s with schedule := rest, resp := { data := 0, error := false } } : State).storeConfig r v) := by
  have h4 : x.toNat % 4 = 0 := by
    unfold configOffset at hx
    omega
  have hidle' : ({ s with schedule := rest, resp := { data := 0, error := false } } : State).busy = false := hidle
  rw [step_write_register h h4 (lt_of_configOffset hx), hr, Option.elim_some, writeReg_of_isConfig hcfg,
    State.writeConfig, hidle', if_neg Bool.false_ne_true]

end Sys2Proof.Machine
end

section
/-! SUPPORT. The proofs of the statements about the windows and the registers: O44, O45, O46, O49, O50, O53. -/

namespace Sys2Proof.Claims

open Sys2Proof.Machine

/-- Settles O44: the data is the number of the window's bytes, each of which `windowByte` gives. -/
theorem windowReadReturnsTheStoredBytes : Obligations.WindowReadReturnsTheStoredBytes := by
  unfold Obligations.WindowReadReturnsTheStoredBytes
  intro s rest x n hs hgood hwin
  have hlen : ((List.range' x.toNat n.bytes).map s.windowByte).length = n.bytes := by simp
  have hle : ((List.range' x.toNat n.bytes).map s.windowByte).length ≤ 4 := hlen.trans_le n.bytes_le
  refine ⟨_, step_read hs (accessOk_of_not_accessBad hgood), rfl, ?_, fun j hj => ?_⟩
  · dsimp only
    rw [readData_of_inWindow hwin, toNat_ofNat_leNat hle]
    exact (leNat_lt _).trans_eq (by rw [hlen])
  · have hbyte : (s.readData x.toNat n).extractLsb' (8 * j) 8 = s.windowByte (x.toNat + j) := by
      rw [readData_of_inWindow hwin, extractLsb'_ofNat_leNat hle (hj.trans_eq hlen.symm)]
      simp
    exact ⟨fun b hholds hread => hbyte.trans (windowByte_of_read hholds hread),
      fun hnot => hbyte.trans (windowByte_of_not_holdsByte hnot)⟩

/-- Settles O45: the write stores its bytes through `State.writeBytes`, which touches the memory alone. -/
theorem windowWriteStoresTheBytes : Obligations.WindowWriteStoresTheBytes := by
  unfold Obligations.WindowWriteStoresTheBytes
  intro s rest x n v hwf hidle hs hgood hwin
  have hread := State.read_writeBytes (s := { s with schedule := rest, resp := { data := 0, error := false } }) hwf
    x.toNat (dataBytes n v)
  have hlen : (dataBytes n v).length = n.bytes := by simp [dataBytes]
  obtain ⟨m, hm⟩ := exists_writeBytes_eq { s with schedule := rest, resp := { data := 0, error := false } } x.toNat
    (dataBytes n v)
  have hstep : step s = .next { s with schedule := rest, resp := { data := 0, error := false }, mem := m } := by
    rw [step_write hs (accessOk_of_not_accessBad hgood), writeData_of_inWindow hwin, State.writeWindow, if_neg, hm]
    simpa [State.busy] using hidle
  rw [hm, hlen] at hread
  refine ⟨_, hstep, rfl, rfl, fun j hj hholds => ?_, fun y hy => ?_⟩
  · rw [hread, if_pos ⟨Nat.le_add_right _ _, by omega, (windowHolds_iff _ _).2 hholds⟩, Nat.add_sub_cancel_left]
    simp [dataBytes, hj]
  · rw [hread, if_neg (by rwa [windowHolds_iff])]

/-- Settles O49: an aligned word of the window lies in one descriptor. -/
theorem descWindowReadsDescriptors : Obligations.DescWindowReadsDescriptors := by
  unfold Obligations.DescWindowReadsDescriptors
  intro s rest k x hx hk
  have hok : accessOk x.toNat .b4 = true := accessOk_word (by omega)
  have hregion : regionOf x.toNat = .desc := regionOf_desc (by omega) (by omega)
  refine ⟨fun hidle hs => ⟨_, step_read hs hok, fun d hkmax hd => ?_, fun hmax => ?_⟩, fun v hs => ?_⟩
  · have hentry : (x.toNat - 0x8000) / 8 = k := by omega
    have hhalf : x.toNat % 8 = 0 ↔ x.toNat = 0x8000 + 8 * k := by omega
    simp [State.readData, hregion, State.descWord, hidle, hentry, hkmax, hd, hhalf]
  · have hentry : (x.toNat - 0x8000) / 8 = k := by omega
    simp [State.readData, hregion, State.descWord, hidle, hentry, hmax]
  · refine ⟨_, step_write_of_other hs hok ?_, rfl, rfl⟩
    unfold configOffset inWindow
    omega

/-- Settles O53: the reserved region holds nothing to read, and neither it nor a result register is a target that a
write reaches. -/
theorem reservedRegionAndResultsIgnoreWrites : Obligations.ReservedRegionAndResultsIgnoreWrites := by
  unfold Obligations.ReservedRegionAndResultsIgnoreWrites
  refine fun s rest x n => ⟨fun hlo hhi hgood => ⟨fun hs => ?_, fun v hs => ?_⟩, fun hlo hhi h4 v hs => ?_⟩
  · refine ⟨_, step_read hs (accessOk_of_not_accessBad hgood), rfl, ?_⟩
    simp [State.readData, regionOf_reserved hlo hhi]
  · refine ⟨_, step_write_of_other hs (accessOk_of_not_accessBad hgood) ?_, rfl, rfl⟩
    unfold configOffset inWindow
    omega
  · refine ⟨_, step_write_of_other hs (accessOk_word h4) ?_, rfl, rfl⟩
    unfold configOffset inWindow
    omega

/-- Settles O50: a word read of the register range is `State.readReg`; of an idle block a result register is no draw. -/
theorem registersReadTheirStoredValues : Obligations.RegistersReadTheirStoredValues := by
  unfold Obligations.RegistersReadTheirStoredValues
  intro s rest x hs
  refine ⟨_, step_of_schedule hs, ?_, ?_, ?_, ?_, ?_, ?_, ?_, ?_, ?_, fun hidle => ⟨?_, ?_, ?_, ?_, ?_, ?_⟩⟩
  iterate 7 · rintro rfl; rfl
  · rintro rfl
    exact ckCfgWord_layout s.ckcfg
  · rintro rfl
    exact threeFlags_layout _ _ _
  iterate 5 · rintro rfl; exact resultRead_of_idle hidle _
  · rintro rfl
    exact readReg_resFlags_layout hidle

/-- Settles O46: the write reaches `State.storeConfig` or `State.writeCtrl`, and the read that follows shows the stored
field's word. -/
theorem configurationReadsBackAsWritten : Obligations.ConfigurationReadsBackAsWritten := by
  unfold Obligations.ConfigurationReadsBackAsWritten
  intro s x v rest hs
  obtain ⟨t, ht, -⟩ := hostAccess_cases (.write x .b4 v) { s with schedule := .host (.read x .b4) :: rest }
  have hstep : step s = .next t := (step_of_schedule hs).trans ht
  obtain ⟨-, -, -, hsched⟩ := hostAccess_keepsResults ht
  refine ⟨t, _, hstep, step_of_schedule hsched, fun hidle hcfg => ?_, fun hbusy hcfg => ?_, ?_⟩
  · obtain rfl | rfl | rfl | rfl | rfl | rfl | rfl | rfl := addr_of_configOffset hcfg
    all_goals cases (step_write_config hs hidle hcfg rfl rfl).symm.trans hstep
    iterate 4 · exact ⟨rfl, rfl, rfl⟩
    · exact ⟨CkCfg.toWord_ofWord v, rfl, rfl⟩
    iterate 3 · exact ⟨rfl, rfl, rfl⟩
  · obtain ⟨t', hstep', -, hrow, hconfig, -⟩ := writesWhileBusyFollowTheTable s x .b4 v _ hbusy hs
    cases hstep'.symm.trans hstep
    have hgood : ¬ accessBad x .b4 := by
      rintro (hmis | ⟨-, hsize⟩)
      · unfold configOffset at hcfg
        simp only [Size.bytes] at hmis
        omega
      · exact hsize rfl
    obtain ⟨-, hignored, -⟩ := hrow hgood
    refine ⟨(sameConfig_hostRead_iff x .b4 s _).2 hconfig, ?_⟩
    rw [hostRead_status, hignored (.inr (.inl hcfg))]
  · rintro rfl
    cases ht
    exact ⟨Ctrl.toWord_ofWord v, rfl, rfl⟩

end Sys2Proof.Claims
end
